-- ==== Sys2Proof/Word.lean ====
section
/-! DEFINITION. The two widths of the block: a byte (every register but pc, every memory cell) and a
16-bit word (pc and every bus address). spec/00_scope.md R8; R7 `DATA_BITS`, `ADDR_BITS`. -/

namespace Sys2Proof

/-- A byte, 8 bits, unsigned (spec/00_scope.md R8). -/
abbrev Byte := BitVec 8

/-- A word, 16 bits, unsigned: an address or the program counter (spec/00_scope.md R8). -/
abbrev Word := BitVec 16

end Sys2Proof
end

