-- ==== Sys2Proof/Machine/Bits.lean ====
section
/-! DEFINITION. The notation of spec/00_scope.md R8 on bytes and words: concatenation, the two halves
of a word, page numbers, zero and sign extension. -/

namespace Sys2Proof.Machine

/-- `(h : l)`: the word with high byte `h` and low byte `l` (R8). -/
def wordOf (h l : Byte) : Word := h ++ l

/-- `w[15:8]` (R8). -/
def highByte (w : Word) : Byte := w.extractLsb' 8 8

/-- `w[7:0]` (R8). -/
def lowByte (w : Word) : Byte := w.extractLsb' 0 8

/-- `Page(w)`, the page number of an address (R8). -/
def page (w : Word) : Byte := highByte w

/-- `zext_16(v)` (R8). -/
def zext16 (v : Byte) : Word := v.setWidth 16

/-- `sext_16(v)`: the byte as a two's complement number, modulo 65536 (R8). -/
def sext16 (v : Byte) : Word := v.signExtend 16

end Sys2Proof.Machine
end

