-- ==== Sys2Proof/Machine/Names.lean ====
section
/-! DEFINITION. The two enumerations of the decoder, Mnemonic and AddressingMode, and an instruction's
operand as its addressing mode and operand bytes. spec/10_state.md R28, R29, spec/30_encoding.md R122. -/

namespace Sys2Proof.Machine

/-- The 56 instruction names (spec/10_state.md R28). -/
inductive Mnemonic where
  | LDA | LDX | LDY | STA | STX | STY
  | ADC | SBC | CMP | CPX | CPY | INC | INX | INY | DEC | DEX | DEY
  | AND | ORA | EOR | BIT
  | ASL | LSR | ROL | ROR
  | BPL | BMI | BVC | BVS | BCC | BCS | BNE | BEQ
  | JMP | JSR | RTS | RTI | BRK
  | PHA | PHP | PLA | PLP
  | CLC | SEC | CLI | SEI | CLV | CLD | SED
  | TAX | TAY | TXA | TYA | TSX | TXS
  | NOP
  deriving DecidableEq, Repr

/-- The 13 addressing modes (spec/10_state.md R29). -/
inductive AddressingMode where
  | impl | acc | imm | zp | zpx | zpy | rel | indx | indy | abs | absx | absy | ind
  deriving DecidableEq, Repr

/-- An operand in memory whose byte the instruction reads, writes or both, in one of the eight modes
that yield an effective address for data (spec/30_encoding.md R173 to R176, R178, R179). -/
inductive MemOperand where
  | zp (nn : Byte)
  | zpx (nn : Byte)
  | zpy (nn : Byte)
  | abs (w : Word)
  | absx (w : Word)
  | absy (w : Word)
  | indx (nn : Byte)
  | indy (nn : Byte)
  deriving DecidableEq, Repr

/-- An instruction's operand: its addressing mode with its operand bytes (spec/30_encoding.md R122). -/
inductive Operand where
  | impl
  | acc
  | imm (nn : Byte)
  | mem (m : MemOperand)
  | rel (d : Byte)
  | ind (w : Word)
  deriving DecidableEq, Repr

/-- The addressing mode of a memory operand. -/
def MemOperand.mode : MemOperand → AddressingMode
  | .zp _ => .zp
  | .zpx _ => .zpx
  | .zpy _ => .zpy
  | .abs _ => .abs
  | .absx _ => .absx
  | .absy _ => .absy
  | .indx _ => .indx
  | .indy _ => .indy

/-- The addressing mode of an operand. -/
def Operand.mode : Operand → AddressingMode
  | .impl => .impl
  | .acc => .acc
  | .imm _ => .imm
  | .mem m => m.mode
  | .rel _ => .rel
  | .ind _ => .ind

/-- The instruction length of a mode in bytes (spec/10_state.md R29). -/
def AddressingMode.length : AddressingMode → Nat
  | .impl => 1
  | .acc => 1
  | .imm => 2
  | .zp => 2
  | .zpx => 2
  | .zpy => 2
  | .rel => 2
  | .indx => 2
  | .indy => 2
  | .abs => 3
  | .absx => 3
  | .absy => 3
  | .ind => 3

/-- The mnemonics that write `pc` themselves (spec/40_execution_common.md R202). BRK belongs to them
under the canonical reading, which the model takes (log 1). -/
def Mnemonic.isControlTransfer : Mnemonic → Bool
  | .JMP => true
  | .JSR => true
  | .RTS => true
  | .RTI => true
  | .BRK => true
  | .BPL => true
  | .BMI => true
  | .BVC => true
  | .BVS => true
  | .BCC => true
  | .BCS => true
  | .BNE => true
  | .BEQ => true
  | _ => false

end Sys2Proof.Machine
end

