-- ==== Sys2Proof/Syntax.lean ====
section
/-! DEFINITION. The instructions, one constructor per legal row of spec/opcode_table.json, and one
constructor for the table's 105 rows "(illegal)", which carries the byte of the row. A constructor's
arguments are the instruction's operand bytes: `nn` an 8-bit operand, `d` a branch displacement, `w`
the 16-bit operand `(hh : ll)`. spec/30_encoding.md R122, R140, R141. -/

namespace Sys2Proof

/-- An instruction of the block (spec/30_encoding.md R140). -/
inductive Instr where
  -- LDA: spec/41_load_store.md R230
  | ldaImm (nn : Byte)
  | ldaZp (nn : Byte)
  | ldaZpX (nn : Byte)
  | ldaAbs (w : Word)
  | ldaAbsX (w : Word)
  | ldaAbsY (w : Word)
  | ldaIndX (nn : Byte)
  | ldaIndY (nn : Byte)
  -- LDX: spec/41_load_store.md R231
  | ldxImm (nn : Byte)
  | ldxZp (nn : Byte)
  | ldxZpY (nn : Byte)
  | ldxAbs (w : Word)
  | ldxAbsY (w : Word)
  -- LDY: spec/41_load_store.md R232
  | ldyImm (nn : Byte)
  | ldyZp (nn : Byte)
  | ldyZpX (nn : Byte)
  | ldyAbs (w : Word)
  | ldyAbsX (w : Word)
  -- STA: spec/41_load_store.md R233
  | staZp (nn : Byte)
  | staZpX (nn : Byte)
  | staAbs (w : Word)
  | staAbsX (w : Word)
  | staAbsY (w : Word)
  | staIndX (nn : Byte)
  | staIndY (nn : Byte)
  -- STX: spec/41_load_store.md R234
  | stxZp (nn : Byte)
  | stxZpY (nn : Byte)
  | stxAbs (w : Word)
  -- STY: spec/41_load_store.md R235
  | styZp (nn : Byte)
  | styZpX (nn : Byte)
  | styAbs (w : Word)
  -- ADC: spec/42_arithmetic.md R236
  | adcImm (nn : Byte)
  | adcZp (nn : Byte)
  | adcZpX (nn : Byte)
  | adcAbs (w : Word)
  | adcAbsX (w : Word)
  | adcAbsY (w : Word)
  | adcIndX (nn : Byte)
  | adcIndY (nn : Byte)
  -- SBC: spec/42_arithmetic.md R237
  | sbcImm (nn : Byte)
  | sbcZp (nn : Byte)
  | sbcZpX (nn : Byte)
  | sbcAbs (w : Word)
  | sbcAbsX (w : Word)
  | sbcAbsY (w : Word)
  | sbcIndX (nn : Byte)
  | sbcIndY (nn : Byte)
  -- CMP: spec/42_arithmetic.md R238
  | cmpImm (nn : Byte)
  | cmpZp (nn : Byte)
  | cmpZpX (nn : Byte)
  | cmpAbs (w : Word)
  | cmpAbsX (w : Word)
  | cmpAbsY (w : Word)
  | cmpIndX (nn : Byte)
  | cmpIndY (nn : Byte)
  -- CPX: spec/42_arithmetic.md R239
  | cpxImm (nn : Byte)
  | cpxZp (nn : Byte)
  | cpxAbs (w : Word)
  -- CPY: spec/42_arithmetic.md R240
  | cpyImm (nn : Byte)
  | cpyZp (nn : Byte)
  | cpyAbs (w : Word)
  -- INC: spec/42_arithmetic.md R241
  | incZp (nn : Byte)
  | incZpX (nn : Byte)
  | incAbs (w : Word)
  | incAbsX (w : Word)
  -- INX: spec/42_arithmetic.md R242
  | inx
  -- INY: spec/42_arithmetic.md R243
  | iny
  -- DEC: spec/42_arithmetic.md R244
  | decZp (nn : Byte)
  | decZpX (nn : Byte)
  | decAbs (w : Word)
  | decAbsX (w : Word)
  -- DEX: spec/42_arithmetic.md R245
  | dex
  -- DEY: spec/42_arithmetic.md R246
  | dey
  -- AND: spec/43_logical.md R247
  | andImm (nn : Byte)
  | andZp (nn : Byte)
  | andZpX (nn : Byte)
  | andAbs (w : Word)
  | andAbsX (w : Word)
  | andAbsY (w : Word)
  | andIndX (nn : Byte)
  | andIndY (nn : Byte)
  -- ORA: spec/43_logical.md R248
  | oraImm (nn : Byte)
  | oraZp (nn : Byte)
  | oraZpX (nn : Byte)
  | oraAbs (w : Word)
  | oraAbsX (w : Word)
  | oraAbsY (w : Word)
  | oraIndX (nn : Byte)
  | oraIndY (nn : Byte)
  -- EOR: spec/43_logical.md R249
  | eorImm (nn : Byte)
  | eorZp (nn : Byte)
  | eorZpX (nn : Byte)
  | eorAbs (w : Word)
  | eorAbsX (w : Word)
  | eorAbsY (w : Word)
  | eorIndX (nn : Byte)
  | eorIndY (nn : Byte)
  -- BIT: spec/43_logical.md R250
  | bitZp (nn : Byte)
  | bitAbs (w : Word)
  -- ASL: spec/44_shift_rotate.md R251
  | aslAcc
  | aslZp (nn : Byte)
  | aslZpX (nn : Byte)
  | aslAbs (w : Word)
  | aslAbsX (w : Word)
  -- LSR: spec/44_shift_rotate.md R252
  | lsrAcc
  | lsrZp (nn : Byte)
  | lsrZpX (nn : Byte)
  | lsrAbs (w : Word)
  | lsrAbsX (w : Word)
  -- ROL: spec/44_shift_rotate.md R253
  | rolAcc
  | rolZp (nn : Byte)
  | rolZpX (nn : Byte)
  | rolAbs (w : Word)
  | rolAbsX (w : Word)
  -- ROR: spec/44_shift_rotate.md R254
  | rorAcc
  | rorZp (nn : Byte)
  | rorZpX (nn : Byte)
  | rorAbs (w : Word)
  | rorAbsX (w : Word)
  -- BPL: spec/45_branch.md R255
  | bpl (d : Byte)
  -- BMI: spec/45_branch.md R256
  | bmi (d : Byte)
  -- BVC: spec/45_branch.md R257
  | bvc (d : Byte)
  -- BVS: spec/45_branch.md R258
  | bvs (d : Byte)
  -- BCC: spec/45_branch.md R259
  | bcc (d : Byte)
  -- BCS: spec/45_branch.md R260
  | bcs (d : Byte)
  -- BNE: spec/45_branch.md R261
  | bne (d : Byte)
  -- BEQ: spec/45_branch.md R262
  | beq (d : Byte)
  -- JMP: spec/46_jump.md R263
  | jmpAbs (w : Word)
  | jmpInd (w : Word)
  -- JSR: spec/46_jump.md R264
  | jsr (w : Word)
  -- RTS: spec/46_jump.md R265
  | rts
  -- RTI: spec/46_jump.md R266
  | rti
  -- BRK: spec/46_jump.md R267
  | brk
  -- PHA: spec/47_stack.md R268
  | pha
  -- PHP: spec/47_stack.md R269
  | php
  -- PLA: spec/47_stack.md R270
  | pla
  -- PLP: spec/47_stack.md R271
  | plp
  -- CLC: spec/48_flag.md R272
  | clc
  -- SEC: spec/48_flag.md R273
  | sec
  -- CLI: spec/48_flag.md R274
  | cli
  -- SEI: spec/48_flag.md R275
  | sei
  -- CLV: spec/48_flag.md R276
  | clv
  -- CLD: spec/48_flag.md R277
  | cld
  -- SED: spec/48_flag.md R278
  | sed
  -- TAX: spec/49_transfer_nop.md R279
  | tax
  -- TAY: spec/49_transfer_nop.md R280
  | tay
  -- TXA: spec/49_transfer_nop.md R281
  | txa
  -- TYA: spec/49_transfer_nop.md R282
  | tya
  -- TSX: spec/49_transfer_nop.md R283
  | tsx
  -- TXS: spec/49_transfer_nop.md R284
  | txs
  -- NOP: spec/49_transfer_nop.md R285
  | nop
  -- a byte that is no opcode: spec/30_encoding.md R141
  | illegal (byte : Byte)
  deriving DecidableEq, Repr

end Sys2Proof
end

