-- ==== Sys2Proof/WellFormed.lean ====
section
/-! DEFINITION. Which instructions are well formed. Every operand byte takes every value
(spec/30_encoding.md R142), so the one thing to check is that an `illegal` instruction carries a byte
of the illegal set, which is written out here from spec/30_encoding.md R141. -/

namespace Sys2Proof

/-- The illegal bytes with `a = 0` (R141). -/
def illegalBytes0 : List Byte :=
  [0x04, 0x0C, 0x14, 0x1C, 0x34, 0x3C, 0x44, 0x54, 0x5C, 0x64, 0x74,
   0x7C, 0x80, 0x9C, 0xD4, 0xDC, 0xF4, 0xFC]

/-- The illegal bytes with `a = 1` (R141). -/
def illegalBytes1 : List Byte :=
  [0x89]

/-- The illegal bytes with `a = 2` (R141). -/
def illegalBytes2 : List Byte :=
  [0x02, 0x12, 0x1A, 0x22, 0x32, 0x3A, 0x42, 0x52, 0x5A, 0x62, 0x72,
   0x7A, 0x82, 0x92, 0x9E, 0xB2, 0xC2, 0xD2, 0xDA, 0xE2, 0xF2, 0xFA]

/-- The illegal bytes with `a = 3`: all 64 of them, in two halves (R136, R141). -/
def illegalBytes3 : List Byte :=
  [0x03, 0x07, 0x0B, 0x0F, 0x13, 0x17, 0x1B, 0x1F, 0x23, 0x27, 0x2B,
   0x2F, 0x33, 0x37, 0x3B, 0x3F, 0x43, 0x47, 0x4B, 0x4F, 0x53, 0x57,
   0x5B, 0x5F, 0x63, 0x67, 0x6B, 0x6F, 0x73, 0x77, 0x7B, 0x7F] ++
  [0x83, 0x87, 0x8B, 0x8F, 0x93, 0x97, 0x9B, 0x9F, 0xA3, 0xA7, 0xAB,
   0xAF, 0xB3, 0xB7, 0xBB, 0xBF, 0xC3, 0xC7, 0xCB, 0xCF, 0xD3, 0xD7,
   0xDB, 0xDF, 0xE3, 0xE7, 0xEB, 0xEF, 0xF3, 0xF7, 0xFB, 0xFF]

/-- The illegal set: the 105 bytes that are no opcode (R141). -/
def illegalBytes : List Byte := illegalBytes0 ++ illegalBytes1 ++ illegalBytes2 ++ illegalBytes3

/-- An `illegal` instruction carries an illegal byte; every other instruction is well formed. -/
def Instr.wf : Instr → Bool
  | .illegal b => illegalBytes.contains b
  | _ => true

end Sys2Proof
end

