-- ==== Sys2Proof/Decode.lean ====
section
/-! DEFINITION. The decoder: an opcode byte's three fields, the explicit table and the three group
resolvers, and from them the function from bytes to an instruction; the encoder; what a consumer may
ask of an instruction (mnemonic, mode, length, base cycles, the two flags). spec/30_encoding.md R120 to
R143. The reads of the bus, in order, are in Machine/Decoder.lean. -/

namespace Sys2Proof

open Sys2Proof.Machine

/-- `a = byte[1:0]` (R120). -/
def fieldA (op : Byte) : BitVec 2 := op.extractLsb' 0 2

/-- `b = byte[7:5]` (R120). -/
def fieldB (op : Byte) : BitVec 3 := op.extractLsb' 5 3

/-- `c = byte[4:2]` (R120). -/
def fieldC (op : Byte) : BitVec 3 := op.extractLsb' 2 3

/-- What an opcode byte settles: how many operand bytes follow (formats F1, F2, F3 of R122), and the
instruction once they are known. -/
inductive Shape where
  | one (i : Instr)
  | two (k : Byte → Instr)
  | three (k : Word → Instr)

/-- The explicit table, one entry a byte value, part 1 of 3 (R125). -/
def explicitTable1 : List (Byte × Shape) :=
  [(0x00, .one .brk),
   (0x08, .one .php),
   (0x10, .two .bpl),
   (0x18, .one .clc),
   (0x20, .three .jsr),
   (0x28, .one .plp),
   (0x30, .two .bmi),
   (0x38, .one .sec),
   (0x40, .one .rti),
   (0x48, .one .pha),
   (0x4C, .three .jmpAbs),
   (0x50, .two .bvc)]

/-- The explicit table, one entry a byte value, part 2 of 3 (R125). -/
def explicitTable2 : List (Byte × Shape) :=
  [(0x58, .one .cli),
   (0x60, .one .rts),
   (0x68, .one .pla),
   (0x6C, .three .jmpInd),
   (0x70, .two .bvs),
   (0x78, .one .sei),
   (0x88, .one .dey),
   (0x8A, .one .txa),
   (0x90, .two .bcc),
   (0x98, .one .tya),
   (0x9A, .one .txs),
   (0xA8, .one .tay)]

/-- The explicit table, one entry a byte value, part 3 of 3 (R125). -/
def explicitTable3 : List (Byte × Shape) :=
  [(0xAA, .one .tax),
   (0xB0, .two .bcs),
   (0xB8, .one .clv),
   (0xBA, .one .tsx),
   (0xC8, .one .iny),
   (0xCA, .one .dex),
   (0xD0, .two .bne),
   (0xD8, .one .cld),
   (0xE8, .one .inx),
   (0xEA, .one .nop),
   (0xF0, .two .beq),
   (0xF8, .one .sed)]

/-- The explicit table (R125). -/
def explicitTable : List (Byte × Shape) := explicitTable1 ++ explicitTable2 ++ explicitTable3

/-- One row of a group's grid: the cell that `c` picks. -/
def gridRow (c : BitVec 3) (c0 c1 c2 c3 c4 c5 c6 c7 : Shape) : Shape :=
  match c.toNat with
  | 0 => c0
  | 1 => c1
  | 2 => c2
  | 3 => c3
  | 4 => c4
  | 5 => c5
  | 6 => c6
  | _ => c7

/-- Group `a = 1`: `b` picks the mnemonic, `c` the mode; an empty cell, and a cell whose byte the
explicit table takes first, is `bad` (R130, R131). -/
def group1 (b c : BitVec 3) (bad : Shape) : Shape :=
  match b.toNat with
  | 0 => gridRow c (.two .oraIndX) (.two .oraZp) (.two .oraImm) (.three .oraAbs)
      (.two .oraIndY) (.two .oraZpX) (.three .oraAbsY) (.three .oraAbsX)
  | 1 => gridRow c (.two .andIndX) (.two .andZp) (.two .andImm) (.three .andAbs)
      (.two .andIndY) (.two .andZpX) (.three .andAbsY) (.three .andAbsX)
  | 2 => gridRow c (.two .eorIndX) (.two .eorZp) (.two .eorImm) (.three .eorAbs)
      (.two .eorIndY) (.two .eorZpX) (.three .eorAbsY) (.three .eorAbsX)
  | 3 => gridRow c (.two .adcIndX) (.two .adcZp) (.two .adcImm) (.three .adcAbs)
      (.two .adcIndY) (.two .adcZpX) (.three .adcAbsY) (.three .adcAbsX)
  | 4 => gridRow c (.two .staIndX) (.two .staZp) bad (.three .staAbs)
      (.two .staIndY) (.two .staZpX) (.three .staAbsY) (.three .staAbsX)
  | 5 => gridRow c (.two .ldaIndX) (.two .ldaZp) (.two .ldaImm) (.three .ldaAbs)
      (.two .ldaIndY) (.two .ldaZpX) (.three .ldaAbsY) (.three .ldaAbsX)
  | 6 => gridRow c (.two .cmpIndX) (.two .cmpZp) (.two .cmpImm) (.three .cmpAbs)
      (.two .cmpIndY) (.two .cmpZpX) (.three .cmpAbsY) (.three .cmpAbsX)
  | _ => gridRow c (.two .sbcIndX) (.two .sbcZp) (.two .sbcImm) (.three .sbcAbs)
      (.two .sbcIndY) (.two .sbcZpX) (.three .sbcAbsY) (.three .sbcAbsX)

/-- Group `a = 2`: `b` picks the mnemonic, `c` the mode; an empty cell, and a cell whose byte the
explicit table takes first, is `bad` (R132, R133). -/
def group2 (b c : BitVec 3) (bad : Shape) : Shape :=
  match b.toNat with
  | 0 => gridRow c bad (.two .aslZp) (.one .aslAcc) (.three .aslAbs)
      bad (.two .aslZpX) bad (.three .aslAbsX)
  | 1 => gridRow c bad (.two .rolZp) (.one .rolAcc) (.three .rolAbs)
      bad (.two .rolZpX) bad (.three .rolAbsX)
  | 2 => gridRow c bad (.two .lsrZp) (.one .lsrAcc) (.three .lsrAbs)
      bad (.two .lsrZpX) bad (.three .lsrAbsX)
  | 3 => gridRow c bad (.two .rorZp) (.one .rorAcc) (.three .rorAbs)
      bad (.two .rorZpX) bad (.three .rorAbsX)
  | 4 => gridRow c bad (.two .stxZp) bad (.three .stxAbs)
      bad (.two .stxZpY) bad bad
  | 5 => gridRow c (.two .ldxImm) (.two .ldxZp) bad (.three .ldxAbs)
      bad (.two .ldxZpY) bad (.three .ldxAbsY)
  | 6 => gridRow c bad (.two .decZp) bad (.three .decAbs)
      bad (.two .decZpX) bad (.three .decAbsX)
  | _ => gridRow c bad (.two .incZp) bad (.three .incAbs)
      bad (.two .incZpX) bad (.three .incAbsX)

/-- Group `a = 0`: `b` picks the mnemonic, `c` the mode; an empty cell, and a cell whose byte the
explicit table takes first, is `bad` (R134, R135). -/
def group0 (b c : BitVec 3) (bad : Shape) : Shape :=
  match b.toNat with
  | 0 => bad
  | 1 => gridRow c bad (.two .bitZp) bad (.three .bitAbs)
      bad bad bad bad
  | 2 => bad
  | 3 => bad
  | 4 => gridRow c bad (.two .styZp) bad (.three .styAbs)
      bad (.two .styZpX) bad bad
  | 5 => gridRow c (.two .ldyImm) (.two .ldyZp) bad (.three .ldyAbs)
      bad (.two .ldyZpX) bad (.three .ldyAbsX)
  | 6 => gridRow c (.two .cpyImm) (.two .cpyZp) bad (.three .cpyAbs)
      bad bad bad bad
  | _ => gridRow c (.two .cpxImm) (.two .cpxZp) bad (.three .cpxAbs)
      bad bad bad bad

/-- The decode of an opcode byte: the explicit table first, then the resolver of the byte's `a`; there
is no resolver for `a = 3` (R121, R136). A byte in neither is an illegal one (R141). -/
def decodeOpcode (op : Byte) : Shape :=
  match explicitTable.lookup op with
  | some sh => sh
  | none =>
    match (fieldA op).toNat with
    | 0 => group0 (fieldB op) (fieldC op) (.one (.illegal op))
    | 1 => group1 (fieldB op) (fieldC op) (.one (.illegal op))
    | 2 => group2 (fieldB op) (fieldC op) (.one (.illegal op))
    | _ => .one (.illegal op)

/-- Why a list of bytes holds no whole instruction. -/
inductive DecodeError where
  /-- There is no opcode byte. -/
  | noOpcode
  /-- The operand bytes of this opcode are not all there. -/
  | operandMissing (op : Byte)
  deriving DecidableEq, Repr

/-- The instruction at the head of a list of bytes, and the bytes after it: opcode, then operand bytes
at ascending addresses, the low byte of a 16-bit operand first (R122, R161). -/
def decode : List Byte → Except DecodeError (Instr × List Byte)
  | [] => .error .noOpcode
  | op :: rest =>
    match decodeOpcode op with
    | .one i => .ok (i, rest)
    | .two k =>
      match rest with
      | nn :: rest => .ok (k nn, rest)
      | [] => .error (.operandMissing op)
    | .three k =>
      match rest with
      | ll :: hh :: rest => .ok (k (wordOf hh ll), rest)
      | _ => .error (.operandMissing op)

/-- The opcode byte of an instruction, from the encoding table of each mnemonic's rule (R230 to R285);
an illegal one's is the byte itself. -/
def Instr.opcode : Instr → Byte
  | .ldaImm _ => 0xA9
  | .ldaZp _ => 0xA5
  | .ldaZpX _ => 0xB5
  | .ldaAbs _ => 0xAD
  | .ldaAbsX _ => 0xBD
  | .ldaAbsY _ => 0xB9
  | .ldaIndX _ => 0xA1
  | .ldaIndY _ => 0xB1
  | .ldxImm _ => 0xA2
  | .ldxZp _ => 0xA6
  | .ldxZpY _ => 0xB6
  | .ldxAbs _ => 0xAE
  | .ldxAbsY _ => 0xBE
  | .ldyImm _ => 0xA0
  | .ldyZp _ => 0xA4
  | .ldyZpX _ => 0xB4
  | .ldyAbs _ => 0xAC
  | .ldyAbsX _ => 0xBC
  | .staZp _ => 0x85
  | .staZpX _ => 0x95
  | .staAbs _ => 0x8D
  | .staAbsX _ => 0x9D
  | .staAbsY _ => 0x99
  | .staIndX _ => 0x81
  | .staIndY _ => 0x91
  | .stxZp _ => 0x86
  | .stxZpY _ => 0x96
  | .stxAbs _ => 0x8E
  | .styZp _ => 0x84
  | .styZpX _ => 0x94
  | .styAbs _ => 0x8C
  | .adcImm _ => 0x69
  | .adcZp _ => 0x65
  | .adcZpX _ => 0x75
  | .adcAbs _ => 0x6D
  | .adcAbsX _ => 0x7D
  | .adcAbsY _ => 0x79
  | .adcIndX _ => 0x61
  | .adcIndY _ => 0x71
  | .sbcImm _ => 0xE9
  | .sbcZp _ => 0xE5
  | .sbcZpX _ => 0xF5
  | .sbcAbs _ => 0xED
  | .sbcAbsX _ => 0xFD
  | .sbcAbsY _ => 0xF9
  | .sbcIndX _ => 0xE1
  | .sbcIndY _ => 0xF1
  | .cmpImm _ => 0xC9
  | .cmpZp _ => 0xC5
  | .cmpZpX _ => 0xD5
  | .cmpAbs _ => 0xCD
  | .cmpAbsX _ => 0xDD
  | .cmpAbsY _ => 0xD9
  | .cmpIndX _ => 0xC1
  | .cmpIndY _ => 0xD1
  | .cpxImm _ => 0xE0
  | .cpxZp _ => 0xE4
  | .cpxAbs _ => 0xEC
  | .cpyImm _ => 0xC0
  | .cpyZp _ => 0xC4
  | .cpyAbs _ => 0xCC
  | .incZp _ => 0xE6
  | .incZpX _ => 0xF6
  | .incAbs _ => 0xEE
  | .incAbsX _ => 0xFE
  | .inx => 0xE8
  | .iny => 0xC8
  | .decZp _ => 0xC6
  | .decZpX _ => 0xD6
  | .decAbs _ => 0xCE
  | .decAbsX _ => 0xDE
  | .dex => 0xCA
  | .dey => 0x88
  | .andImm _ => 0x29
  | .andZp _ => 0x25
  | .andZpX _ => 0x35
  | .andAbs _ => 0x2D
  | .andAbsX _ => 0x3D
  | .andAbsY _ => 0x39
  | .andIndX _ => 0x21
  | .andIndY _ => 0x31
  | .oraImm _ => 0x09
  | .oraZp _ => 0x05
  | .oraZpX _ => 0x15
  | .oraAbs _ => 0x0D
  | .oraAbsX _ => 0x1D
  | .oraAbsY _ => 0x19
  | .oraIndX _ => 0x01
  | .oraIndY _ => 0x11
  | .eorImm _ => 0x49
  | .eorZp _ => 0x45
  | .eorZpX _ => 0x55
  | .eorAbs _ => 0x4D
  | .eorAbsX _ => 0x5D
  | .eorAbsY _ => 0x59
  | .eorIndX _ => 0x41
  | .eorIndY _ => 0x51
  | .bitZp _ => 0x24
  | .bitAbs _ => 0x2C
  | .aslAcc => 0x0A
  | .aslZp _ => 0x06
  | .aslZpX _ => 0x16
  | .aslAbs _ => 0x0E
  | .aslAbsX _ => 0x1E
  | .lsrAcc => 0x4A
  | .lsrZp _ => 0x46
  | .lsrZpX _ => 0x56
  | .lsrAbs _ => 0x4E
  | .lsrAbsX _ => 0x5E
  | .rolAcc => 0x2A
  | .rolZp _ => 0x26
  | .rolZpX _ => 0x36
  | .rolAbs _ => 0x2E
  | .rolAbsX _ => 0x3E
  | .rorAcc => 0x6A
  | .rorZp _ => 0x66
  | .rorZpX _ => 0x76
  | .rorAbs _ => 0x6E
  | .rorAbsX _ => 0x7E
  | .bpl _ => 0x10
  | .bmi _ => 0x30
  | .bvc _ => 0x50
  | .bvs _ => 0x70
  | .bcc _ => 0x90
  | .bcs _ => 0xB0
  | .bne _ => 0xD0
  | .beq _ => 0xF0
  | .jmpAbs _ => 0x4C
  | .jmpInd _ => 0x6C
  | .jsr _ => 0x20
  | .rts => 0x60
  | .rti => 0x40
  | .brk => 0x00
  | .pha => 0x48
  | .php => 0x08
  | .pla => 0x68
  | .plp => 0x28
  | .clc => 0x18
  | .sec => 0x38
  | .cli => 0x58
  | .sei => 0x78
  | .clv => 0xB8
  | .cld => 0xD8
  | .sed => 0xF8
  | .tax => 0xAA
  | .tay => 0xA8
  | .txa => 0x8A
  | .tya => 0x98
  | .tsx => 0xBA
  | .txs => 0x9A
  | .nop => 0xEA
  | .illegal b => b

/-- The mnemonic and operand an instruction stands for (R140); an illegal byte has neither (R141). -/
def Instr.form : Instr → Option (Mnemonic × Operand)
  | .ldaImm nn => some (.LDA, (.imm nn))
  | .ldaZp nn => some (.LDA, (.mem (.zp nn)))
  | .ldaZpX nn => some (.LDA, (.mem (.zpx nn)))
  | .ldaAbs w => some (.LDA, (.mem (.abs w)))
  | .ldaAbsX w => some (.LDA, (.mem (.absx w)))
  | .ldaAbsY w => some (.LDA, (.mem (.absy w)))
  | .ldaIndX nn => some (.LDA, (.mem (.indx nn)))
  | .ldaIndY nn => some (.LDA, (.mem (.indy nn)))
  | .ldxImm nn => some (.LDX, (.imm nn))
  | .ldxZp nn => some (.LDX, (.mem (.zp nn)))
  | .ldxZpY nn => some (.LDX, (.mem (.zpy nn)))
  | .ldxAbs w => some (.LDX, (.mem (.abs w)))
  | .ldxAbsY w => some (.LDX, (.mem (.absy w)))
  | .ldyImm nn => some (.LDY, (.imm nn))
  | .ldyZp nn => some (.LDY, (.mem (.zp nn)))
  | .ldyZpX nn => some (.LDY, (.mem (.zpx nn)))
  | .ldyAbs w => some (.LDY, (.mem (.abs w)))
  | .ldyAbsX w => some (.LDY, (.mem (.absx w)))
  | .staZp nn => some (.STA, (.mem (.zp nn)))
  | .staZpX nn => some (.STA, (.mem (.zpx nn)))
  | .staAbs w => some (.STA, (.mem (.abs w)))
  | .staAbsX w => some (.STA, (.mem (.absx w)))
  | .staAbsY w => some (.STA, (.mem (.absy w)))
  | .staIndX nn => some (.STA, (.mem (.indx nn)))
  | .staIndY nn => some (.STA, (.mem (.indy nn)))
  | .stxZp nn => some (.STX, (.mem (.zp nn)))
  | .stxZpY nn => some (.STX, (.mem (.zpy nn)))
  | .stxAbs w => some (.STX, (.mem (.abs w)))
  | .styZp nn => some (.STY, (.mem (.zp nn)))
  | .styZpX nn => some (.STY, (.mem (.zpx nn)))
  | .styAbs w => some (.STY, (.mem (.abs w)))
  | .adcImm nn => some (.ADC, (.imm nn))
  | .adcZp nn => some (.ADC, (.mem (.zp nn)))
  | .adcZpX nn => some (.ADC, (.mem (.zpx nn)))
  | .adcAbs w => some (.ADC, (.mem (.abs w)))
  | .adcAbsX w => some (.ADC, (.mem (.absx w)))
  | .adcAbsY w => some (.ADC, (.mem (.absy w)))
  | .adcIndX nn => some (.ADC, (.mem (.indx nn)))
  | .adcIndY nn => some (.ADC, (.mem (.indy nn)))
  | .sbcImm nn => some (.SBC, (.imm nn))
  | .sbcZp nn => some (.SBC, (.mem (.zp nn)))
  | .sbcZpX nn => some (.SBC, (.mem (.zpx nn)))
  | .sbcAbs w => some (.SBC, (.mem (.abs w)))
  | .sbcAbsX w => some (.SBC, (.mem (.absx w)))
  | .sbcAbsY w => some (.SBC, (.mem (.absy w)))
  | .sbcIndX nn => some (.SBC, (.mem (.indx nn)))
  | .sbcIndY nn => some (.SBC, (.mem (.indy nn)))
  | .cmpImm nn => some (.CMP, (.imm nn))
  | .cmpZp nn => some (.CMP, (.mem (.zp nn)))
  | .cmpZpX nn => some (.CMP, (.mem (.zpx nn)))
  | .cmpAbs w => some (.CMP, (.mem (.abs w)))
  | .cmpAbsX w => some (.CMP, (.mem (.absx w)))
  | .cmpAbsY w => some (.CMP, (.mem (.absy w)))
  | .cmpIndX nn => some (.CMP, (.mem (.indx nn)))
  | .cmpIndY nn => some (.CMP, (.mem (.indy nn)))
  | .cpxImm nn => some (.CPX, (.imm nn))
  | .cpxZp nn => some (.CPX, (.mem (.zp nn)))
  | .cpxAbs w => some (.CPX, (.mem (.abs w)))
  | .cpyImm nn => some (.CPY, (.imm nn))
  | .cpyZp nn => some (.CPY, (.mem (.zp nn)))
  | .cpyAbs w => some (.CPY, (.mem (.abs w)))
  | .incZp nn => some (.INC, (.mem (.zp nn)))
  | .incZpX nn => some (.INC, (.mem (.zpx nn)))
  | .incAbs w => some (.INC, (.mem (.abs w)))
  | .incAbsX w => some (.INC, (.mem (.absx w)))
  | .inx => some (.INX, .impl)
  | .iny => some (.INY, .impl)
  | .decZp nn => some (.DEC, (.mem (.zp nn)))
  | .decZpX nn => some (.DEC, (.mem (.zpx nn)))
  | .decAbs w => some (.DEC, (.mem (.abs w)))
  | .decAbsX w => some (.DEC, (.mem (.absx w)))
  | .dex => some (.DEX, .impl)
  | .dey => some (.DEY, .impl)
  | .andImm nn => some (.AND, (.imm nn))
  | .andZp nn => some (.AND, (.mem (.zp nn)))
  | .andZpX nn => some (.AND, (.mem (.zpx nn)))
  | .andAbs w => some (.AND, (.mem (.abs w)))
  | .andAbsX w => some (.AND, (.mem (.absx w)))
  | .andAbsY w => some (.AND, (.mem (.absy w)))
  | .andIndX nn => some (.AND, (.mem (.indx nn)))
  | .andIndY nn => some (.AND, (.mem (.indy nn)))
  | .oraImm nn => some (.ORA, (.imm nn))
  | .oraZp nn => some (.ORA, (.mem (.zp nn)))
  | .oraZpX nn => some (.ORA, (.mem (.zpx nn)))
  | .oraAbs w => some (.ORA, (.mem (.abs w)))
  | .oraAbsX w => some (.ORA, (.mem (.absx w)))
  | .oraAbsY w => some (.ORA, (.mem (.absy w)))
  | .oraIndX nn => some (.ORA, (.mem (.indx nn)))
  | .oraIndY nn => some (.ORA, (.mem (.indy nn)))
  | .eorImm nn => some (.EOR, (.imm nn))
  | .eorZp nn => some (.EOR, (.mem (.zp nn)))
  | .eorZpX nn => some (.EOR, (.mem (.zpx nn)))
  | .eorAbs w => some (.EOR, (.mem (.abs w)))
  | .eorAbsX w => some (.EOR, (.mem (.absx w)))
  | .eorAbsY w => some (.EOR, (.mem (.absy w)))
  | .eorIndX nn => some (.EOR, (.mem (.indx nn)))
  | .eorIndY nn => some (.EOR, (.mem (.indy nn)))
  | .bitZp nn => some (.BIT, (.mem (.zp nn)))
  | .bitAbs w => some (.BIT, (.mem (.abs w)))
  | .aslAcc => some (.ASL, .acc)
  | .aslZp nn => some (.ASL, (.mem (.zp nn)))
  | .aslZpX nn => some (.ASL, (.mem (.zpx nn)))
  | .aslAbs w => some (.ASL, (.mem (.abs w)))
  | .aslAbsX w => some (.ASL, (.mem (.absx w)))
  | .lsrAcc => some (.LSR, .acc)
  | .lsrZp nn => some (.LSR, (.mem (.zp nn)))
  | .lsrZpX nn => some (.LSR, (.mem (.zpx nn)))
  | .lsrAbs w => some (.LSR, (.mem (.abs w)))
  | .lsrAbsX w => some (.LSR, (.mem (.absx w)))
  | .rolAcc => some (.ROL, .acc)
  | .rolZp nn => some (.ROL, (.mem (.zp nn)))
  | .rolZpX nn => some (.ROL, (.mem (.zpx nn)))
  | .rolAbs w => some (.ROL, (.mem (.abs w)))
  | .rolAbsX w => some (.ROL, (.mem (.absx w)))
  | .rorAcc => some (.ROR, .acc)
  | .rorZp nn => some (.ROR, (.mem (.zp nn)))
  | .rorZpX nn => some (.ROR, (.mem (.zpx nn)))
  | .rorAbs w => some (.ROR, (.mem (.abs w)))
  | .rorAbsX w => some (.ROR, (.mem (.absx w)))
  | .bpl d => some (.BPL, (.rel d))
  | .bmi d => some (.BMI, (.rel d))
  | .bvc d => some (.BVC, (.rel d))
  | .bvs d => some (.BVS, (.rel d))
  | .bcc d => some (.BCC, (.rel d))
  | .bcs d => some (.BCS, (.rel d))
  | .bne d => some (.BNE, (.rel d))
  | .beq d => some (.BEQ, (.rel d))
  | .jmpAbs w => some (.JMP, (.mem (.abs w)))
  | .jmpInd w => some (.JMP, (.ind w))
  | .jsr w => some (.JSR, (.mem (.abs w)))
  | .rts => some (.RTS, .impl)
  | .rti => some (.RTI, .impl)
  | .brk => some (.BRK, .impl)
  | .pha => some (.PHA, .impl)
  | .php => some (.PHP, .impl)
  | .pla => some (.PLA, .impl)
  | .plp => some (.PLP, .impl)
  | .clc => some (.CLC, .impl)
  | .sec => some (.SEC, .impl)
  | .cli => some (.CLI, .impl)
  | .sei => some (.SEI, .impl)
  | .clv => some (.CLV, .impl)
  | .cld => some (.CLD, .impl)
  | .sed => some (.SED, .impl)
  | .tax => some (.TAX, .impl)
  | .tay => some (.TAY, .impl)
  | .txa => some (.TXA, .impl)
  | .tya => some (.TYA, .impl)
  | .tsx => some (.TSX, .impl)
  | .txs => some (.TXS, .impl)
  | .nop => some (.NOP, .impl)
  | .illegal _ => none

/-- The operand bytes of an operand, in memory order (R122). -/
def operandBytes : Operand → List Byte
  | .impl => []
  | .acc => []
  | .imm nn => [nn]
  | .mem (.zp nn) => [nn]
  | .mem (.zpx nn) => [nn]
  | .mem (.zpy nn) => [nn]
  | .mem (.indx nn) => [nn]
  | .mem (.indy nn) => [nn]
  | .rel d => [d]
  | .mem (.abs w) => [lowByte w, highByte w]
  | .mem (.absx w) => [lowByte w, highByte w]
  | .mem (.absy w) => [lowByte w, highByte w]
  | .ind w => [lowByte w, highByte w]

/-- The bytes of an instruction: opcode, then operand bytes (R122). -/
def encode (i : Instr) : List Byte :=
  match i.form with
  | some (_, o) => i.opcode :: operandBytes o
  | none => [i.opcode]

/-- Base cycles of the instructions that read their operand, by mode (R137); 0 where there is no form. -/
def readCycles : AddressingMode → Nat
  | .imm => 2
  | .zp => 3
  | .zpx => 4
  | .zpy => 4
  | .abs => 4
  | .absx => 4
  | .absy => 4
  | .indx => 6
  | .indy => 5
  | _ => 0

/-- Base cycles of the stores, by mode (R137); 0 where there is no form. -/
def writeCycles : AddressingMode → Nat
  | .zp => 3
  | .zpx => 4
  | .zpy => 4
  | .abs => 4
  | .absx => 5
  | .absy => 5
  | .indx => 6
  | .indy => 6
  | _ => 0

/-- Base cycles of the read-modify-write instructions, by mode (R137); 0 where there is no form. -/
def modifyCycles : AddressingMode → Nat
  | .acc => 2
  | .zp => 5
  | .zpx => 6
  | .abs => 6
  | .absx => 7
  | _ => 0

/-- Base cycles of JMP, by mode (R137); 0 where there is no form. -/
def jumpCycles : AddressingMode → Nat
  | .abs => 3
  | .ind => 5
  | _ => 0

/-- The base cycle count of an instruction (R137, which sums up the tables of R125 and R140). -/
def baseCycles (mn : Mnemonic) (md : AddressingMode) : Nat :=
  match mn with
  | .LDA | .LDX | .LDY | .ADC | .SBC | .AND | .ORA | .EOR | .CMP | .CPX | .CPY | .BIT => readCycles md
  | .STA | .STX | .STY => writeCycles md
  | .ASL | .LSR | .ROL | .ROR | .INC | .DEC => modifyCycles md
  | .JMP => jumpCycles md
  | .JSR | .RTS | .RTI => 6
  | .BRK => 7
  | .PHA | .PHP => 3
  | .PLA | .PLP => 4
  | .BPL | .BMI | .BVC | .BVS | .BCC | .BCS | .BNE | .BEQ => 2
  | .CLC | .SEC | .CLI | .SEI | .CLV | .CLD | .SED => 2
  | .TAX | .TAY | .TXA | .TYA | .TSX | .TXS | .NOP => 2
  | .INX | .INY | .DEX | .DEY => 2

/-- The page-penalty flag: the `absx`, `absy` and `indy` forms of seven reading mnemonics, LDX `absy`
and LDY `absx` (R138). -/
def pagePenalty (mn : Mnemonic) (md : AddressingMode) : Bool :=
  match mn with
  | .ORA | .AND | .EOR | .ADC | .LDA | .CMP | .SBC => md = .absx || md = .absy || md = .indy
  | .LDX => md = .absy
  | .LDY => md = .absx
  | _ => false

/-- The relative-fixup flag: true exactly for mode `rel` (R139). -/
def relFixup (md : AddressingMode) : Bool := md = .rel

/-- Byte `k` of an instruction whose bits are the number `w`, of which `nbits` bits are given and the
rest are 0: byte 0, the opcode, is the least significant one. -/
def tableByte (nbits w k : Nat) : Byte := BitVec.ofNat 8 (w % 2 ^ nbits / 256 ^ k)

/-- The three bytes of the longest instruction. -/
def tableBytes (nbits w : Nat) : List Byte := [tableByte nbits w 0, tableByte nbits w 1, tableByte nbits w 2]

/-- The instruction the decoder reads from the bits `w` of a row of spec/opcode_table.json. -/
def decodeTableWord (nbits w : Nat) : Option Instr :=
  match decode (tableBytes nbits w) with
  | .ok (i, _) => some i
  | .error _ => none

end Sys2Proof
end

