-- ==== Sys2Proof/Machine/Flags.lean ====
section
/-! DEFINITION. The status register's bits and every flag computation of the instruction set, as
functions on bytes. spec/10_state.md R25 to R27, spec/40_execution_common.md R208, and the rules of
files 42_ to 47_. -/

namespace Sys2Proof.Machine

/-- The bits of the status register (spec/10_state.md R25). -/
inductive Flag where
  | negative
  | overflow
  | unused
  | brk
  | decimal
  | interruptDisable
  | zero
  | carry
  deriving DecidableEq, Repr

/-- The bit number of a flag (spec/10_state.md R25). -/
def Flag.bit : Flag → Nat
  | .negative => 7
  | .overflow => 6
  | .unused => 5
  | .brk => 4
  | .decimal => 3
  | .interruptDisable => 2
  | .zero => 1
  | .carry => 0

/-- The byte with one flag's bit set. -/
def Flag.mask (f : Flag) : Byte := 1#8 <<< f.bit

/-- The value of one flag in a status byte. -/
def getFlag (f : Flag) (sr : Byte) : Bool := sr.getLsbD f.bit

/-- The status byte with one flag written and every other bit kept. -/
def putFlag (f : Flag) (v : Bool) (sr : Byte) : Byte :=
  if v then sr ||| f.mask else sr &&& ~~~ f.mask

/-- `SetZN(v)` (spec/40_execution_common.md R208). -/
def setZN (v sr : Byte) : Byte :=
  putFlag .negative (v.getLsbD 7) (putFlag .zero (decide (v = 0)) sr)

/-- The result of an addition with its carry out and signed overflow (spec/42_arithmetic.md R236). -/
structure Sum where
  r : Byte
  c : Bool
  v : Bool
  deriving DecidableEq, Repr

/-- `t <- AC + M + C` and what R236 takes from it; D is not consulted. -/
def addWithCarry (a m : Byte) (c : Bool) : Sum :=
  let t := a.toNat + m.toNat + c.toNat
  let r := BitVec.ofNat 8 t
  { r := r, c := decide (t > 0xFF), v := decide (((a ^^^ r) &&& (m ^^^ r) &&& 0x80) ≠ 0) }

/-- SBC's sum: the addition of the one's complement of the operand (spec/42_arithmetic.md R237). -/
def subWithCarry (a m : Byte) (c : Bool) : Sum := addWithCarry a (m ^^^ 0xFF) c

/-- The status byte after ADC or SBC: C, V, Z, N (spec/42_arithmetic.md R236, R237). -/
def sumFlags (t : Sum) (sr : Byte) : Byte :=
  setZN t.r (putFlag .overflow t.v (putFlag .carry t.c sr))

/-- The status byte after a compare of register `reg` with `m`: C, Z, N (spec/42_arithmetic.md R238 to
R240). -/
def compareFlags (reg m sr : Byte) : Byte :=
  putFlag .negative ((reg - m).getLsbD 7)
    (putFlag .zero (decide (reg = m)) (putFlag .carry (decide (m.toNat ≤ reg.toNat)) sr))

/-- The status byte after BIT: Z from the and, N and V from the operand (spec/43_logical.md R250). -/
def bitFlags (a m sr : Byte) : Byte :=
  putFlag .overflow (m.getLsbD 6)
    (putFlag .negative (m.getLsbD 7) (putFlag .zero (decide (a &&& m = 0)) sr))

/-- A result byte and the status byte that goes with it. -/
structure Shifted where
  r : Byte
  sr : Byte
  deriving DecidableEq, Repr

/-- A shift's or rotate's flags: the bit shifted out to C, then `SetZN` of the result. -/
def shiftFlags (out : Bool) (r sr : Byte) : Shifted := { r := r, sr := setZN r (putFlag .carry out sr) }

/-- ASL (spec/44_shift_rotate.md R251). -/
def shiftLeft (m sr : Byte) : Shifted := shiftFlags (m.getLsbD 7) (m <<< 1) sr

/-- LSR (spec/44_shift_rotate.md R252). -/
def shiftRight (m sr : Byte) : Shifted := shiftFlags (m.getLsbD 0) (m >>> 1) sr

/-- ROL: the old carry enters at bit 0 (spec/44_shift_rotate.md R253). -/
def rotateLeft (m sr : Byte) : Shifted :=
  shiftFlags (m.getLsbD 7) ((m <<< 1) ||| BitVec.ofNat 8 (getFlag .carry sr).toNat) sr

/-- ROR: the old carry enters at bit 7 (spec/44_shift_rotate.md R254). -/
def rotateRight (m sr : Byte) : Shifted :=
  shiftFlags (m.getLsbD 0) ((m >>> 1) ||| (BitVec.ofNat 8 (getFlag .carry sr).toNat <<< 7)) sr

/-- INC's result and flags: C and V are kept (spec/42_arithmetic.md R241). -/
def increment (m sr : Byte) : Shifted := { r := m + 1, sr := setZN (m + 1) sr }

/-- DEC's result and flags: C and V are kept (spec/42_arithmetic.md R244). -/
def decrement (m sr : Byte) : Shifted := { r := m - 1, sr := setZN (m - 1) sr }

/-- The copy of the status register that PHP and BRK push: bits 5 and 4 set (spec/10_state.md R26). -/
def pushedStatus (sr : Byte) : Byte := sr ||| 0x30

/-- The status register after PLP or RTI pulled `p`: bits 5 and 4 kept (spec/10_state.md R26). -/
def pulledStatus (p sr : Byte) : Byte := (p &&& 0xCF) ||| (sr &&& 0x30)

end Sys2Proof.Machine
end

