-- ==== Sys2Proof/Config.lean ====
section
/-! DEFINITION. The implementation parameters of spec/00_scope.md R7. The two that R7 leaves OPEN are
arguments of the operations they bear on, with every value R7 gives them; the machine that `step` runs
takes them from `openParams`. The one free value of the model, `jmpIndPageWrap`, has no body, so that no
proof can know it. -/

namespace Sys2Proof

/-- The values of `JMP_IND_PAGE_WRAP` (R7; spec/30_encoding.md R177). -/
inductive PageWrapPolicy where
  /-- `true`: the high byte of the target comes from the start of the pointer's page. -/
  | wrap
  /-- `false`: the high byte of the target comes from the next address. -/
  | straight
  /-- `refuse`: a pointer whose low byte is 0xFF has no meaning. -/
  | refuse
  deriving DecidableEq, Repr

/-- The values of `BRK_POLICY` (R7; spec/46_jump.md R267). -/
inductive BrkPolicy where
  /-- `refuse`: BRK decodes, and executing it has no meaning. -/
  | refuse
  /-- `canonical`: the break sequence. -/
  | canonical
  deriving DecidableEq, Repr

/-- The parameters that R7 marks OPEN, "the model takes it as an argument". -/
structure OpenParams where
  pageWrap : PageWrapPolicy
  brk : BrkPolicy
  deriving DecidableEq, Repr

end Sys2Proof

namespace Sys2Proof.Config

/-- `RAM_SIZE`, fixed (R7). -/
def ramSize : Nat := 0x800

/-- `PPU_READ_VALUE`, fixed (R7, spec/20_memory.md R93). -/
def ppuReadValue : Byte := 0x00

/-- `PRG_ROM_BASE`, fixed (R7). -/
def prgRomBase : Nat := 0x8000

/-- `PRG_RAM_BASE`, decided (R7, D13): used only when the cartridge holds PRG-RAM. -/
def prgRamBase : Nat := 0x6000

/-- The length of PRG-RAM when it is present, the size R7 suggests. DESIGN CHOICE (log 12). -/
def prgRamSize : Nat := 0x2000

/-- `HEADER_LEN`, fixed (R7). -/
def headerLen : Nat := 16

/-- `TRAINER_LEN`, fixed (R7). -/
def trainerLen : Nat := 512

/-- `PRG_UNIT`, fixed (R7). -/
def prgUnit : Nat := 16384

/-- `CHR_UNIT`, fixed (R7). -/
def chrUnit : Nat := 8192

/-- `INES_MAGIC`, decided (R7, D15). -/
def inesMagic : List Byte := [0x4E, 0x45, 0x53, 0x1A]

/-- `RESET_VECTOR`, fixed (R7). -/
def resetVector : Word := 0xFFFC

/-- The vector BRK reads (spec/46_jump.md R267). -/
def breakVector : Word := 0xFFFE

/-- `RESET_SP`, decided (R7, D22). -/
def resetSp : Byte := 0xFD

/-- `RESET_SR`, decided (R7, D22): I = 1, bits 5 and 4 = 1. -/
def resetSr : Byte := 0x34

/-- `STACK_BASE`, decided (R7, D21). -/
def stackBase : Word := 0x0100

/-- `ZP_INDEX_WRAP`, decided true (R7, D6). -/
def zpIndexWrap : Bool := true

/-- `ZP_PTR_WRAP`, decided true (R7, D7). -/
def zpPtrWrap : Bool := true

/-- Whether `JMP (ptr)` with `ptr[7:0] = 0xFF` takes the high byte of its target from the start of the
same page, in the machine that `step` runs (R7, D8). A FREE VALUE: it has no body, every claim holds for
both readings. DESIGN CHOICE (log 2), safe. -/
opaque jmpIndPageWrap : Bool

/-- The OPEN parameters (R7) of the machine that `step` runs: `JMP_IND_PAGE_WRAP` is one of the two
values that have an effect, left free (log 2), and `BRK_POLICY` is the value that has one, `canonical`
(log 1). DESIGN CHOICE, unsafe for BRK. Every other value is reached through `execUnder` and
`stepUnder`. -/
def openParams : OpenParams :=
  { pageWrap := if jmpIndPageWrap then .wrap else .straight, brk := .canonical }

/-- What a memory cell that nothing has written reads as. The spec leaves RAM and PRG-RAM contents at
power-up unspecified and says that reading them never fails (spec/10_state.md R41). DESIGN CHOICE
(log 4), unsafe. -/
def unwrittenByte : Byte := 0x00

end Sys2Proof.Config
end

