-- ==== Sys2Proof/Machine/Memory.lean ====
section
/-! DEFINITION. The cells of a Memory Block as plain data: a list of (offset, byte) pairs in one
canonical form. spec/20_memory.md R50 (a block), R57 (a cell keeps its value until a store). The
bounds checks of a block are in Machine/Ops.lean. -/

namespace Sys2Proof.Machine

/-- The cells of a Memory Block that differ from an unwritten cell, offsets strictly rising
(spec/20_memory.md R50). -/
abbrev Memory := List Host.Cell

/-- The byte at an offset: the listed one, else what an unwritten cell reads as (R51, R57). -/
def Memory.read : Memory → Nat → Byte
  | [], _ => Config.unwrittenByte
  | (k, v) :: rest, o => if k = o then v else Memory.read rest o

/-- The cells after the byte at one offset became `v` (R53, R57). The canonical form is kept: a cell
that becomes equal to an unwritten one is no longer listed. -/
def Memory.write : Memory → Nat → Byte → Memory
  | [], o, v => if v = Config.unwrittenByte then [] else [(o, v)]
  | (k, w) :: rest, o, v =>
    if o < k then
      if v = Config.unwrittenByte then (k, w) :: rest else (o, v) :: (k, w) :: rest
    else if o = k then
      if v = Config.unwrittenByte then rest else (o, v) :: rest
    else (k, w) :: Memory.write rest o v

/-- The cells of the byte sequence `bs` placed at ascending offsets from `o`. -/
def Memory.ofBytes : Nat → List Byte → Memory
  | _, [] => []
  | o, b :: bs =>
    if b = Config.unwrittenByte then Memory.ofBytes (o + 1) bs else (o, b) :: Memory.ofBytes (o + 1) bs

/-- Offsets strictly rising from `lo`, all below `len`, no cell equal to an unwritten one. -/
def Memory.wfFrom (lo len : Nat) : Memory → Bool
  | [] => true
  | (k, v) :: rest =>
    decide (lo ≤ k) && decide (k < len) && decide (v ≠ Config.unwrittenByte) && Memory.wfFrom (k + 1) len rest

/-- The canonical form of the cells of a block of length `len`. -/
def Memory.wf (len : Nat) (m : Memory) : Bool := Memory.wfFrom 0 len m

/-- `Block.data()`: the bytes of a block of length `len` in offset order, for inspection
(spec/20_memory.md R55). -/
def Memory.data (len : Nat) (m : Memory) : List Byte := (List.range len).map (Memory.read m)

end Sys2Proof.Machine
end

