-- ==== Sys2Proof/Machine/State.lean ====
section
/-! DEFINITION. The state of the block as plain data, the errors it can report, the refusals, and the
state right after reset. spec/10_state.md R20 to R42, spec/60_exceptions.md R300 to R308. -/

namespace Sys2Proof.Machine

/-- The width of a memory access in bytes (spec/60_exceptions.md R302). -/
inductive Width where
  | one
  | two
  deriving DecidableEq, Repr

/-- The five errors of the block (spec/60_exceptions.md R300 to R308). Each ends the operation in
progress and is handed to the caller; the state the operation was called on is left as it was. -/
inductive Fault where
  /-- R302. Raised by a Memory Block or bus access with no cell behind it, and so by the instruction
  fetch, by operand resolution and by BRK's vector read. The address is the failing operation's own:
  a bus address, or an offset for a bare block. Safe: the hardware reports it too. -/
  | addressOutOfRange (addr : Nat) (width : Width)
  /-- R303. Raised by executing (and by decoding on the bus) one of the 105 illegal bytes: the address
  of the byte and the byte. Safe: the hardware reports it too. -/
  | illegalOpcode (addr : Word) (byte : Byte)
  /-- R304. Raised by LoadCartridge only, with the mapper nibble of the header. Safe. -/
  | unsupportedMapper (id : BitVec 4)
  /-- R305. Raised by LoadCartridge only. Safe. -/
  | truncatedImage
  /-- R305. Raised by LoadCartridge only. Safe. -/
  | malformedHeader
  deriving DecidableEq, Repr

/-- The refusals of the model. `step` raises none of them: an instruction that has no meaning yet, of
which there is none, and the value `refuse` of an OPEN parameter (spec/00_scope.md R7), which the machine
that `step` runs does not take. -/
inductive Refusal where
  /-- Raised by exec for an instruction without a meaning. Safe: nothing is concluded of it. -/
  | notModelled (mnemonic : String)
  /-- Raised by a decode or an execution under `JMP_IND_PAGE_WRAP = refuse` of JMP `ind` whose pointer has
  the low byte 0xFF, with the pointer (spec/30_encoding.md R177). Safe: nothing is concluded of it. -/
  | jmpIndPageWrap (ptr : Word)
  /-- Raised by an execution of BRK under `BRK_POLICY = refuse`, with its address (spec/46_jump.md R267).
  Safe: nothing is concluded of it. -/
  | brkPolicy (addr : Word)
  deriving DecidableEq, Repr

/-- The cartridge, constant after load but for PRG-RAM (spec/10_state.md R36). The lengths of the ROM
and CHR blocks are kept as the header's unit counts (spec/20_memory.md R64, R65). -/
structure Cartridge where
  /-- PRG-ROM length in 16 KiB units (spec/20_memory.md R64). -/
  prgUnits : Byte
  /-- PRG-ROM (spec/20_memory.md R72). -/
  prgRom : Memory
  /-- PRG-RAM, absent when `PRG_RAM_SIZE = 0` (spec/20_memory.md R78). -/
  prgRam : Option Memory
  /-- CHR length in 8 KiB units (spec/20_memory.md R65). -/
  chrUnits : Byte
  /-- CHR, not reachable from the CPU bus (spec/20_memory.md R73, R85). -/
  chr : Memory
  /-- Header byte 6 bit 0 (spec/20_memory.md R66). -/
  mirroring : Bool
  /-- Header byte 6 bit 1 (spec/20_memory.md R66). -/
  battery : Bool
  /-- Header byte 6 bit 2 (spec/20_memory.md R66). -/
  trainer : Bool
  /-- Header byte 6 bit 3 (spec/20_memory.md R66). -/
  mirroringOverride : Bool
  /-- Header byte 6 bits 7 to 4, 0 in a constructed cartridge (spec/20_memory.md R66, R68). -/
  mapper : BitVec 4
  deriving DecidableEq, Repr

/-- A machine instance: registers, internal RAM, cartridge (spec/10_state.md R37), and the cycle count
the last step returned, which is the model's own field (log 6). -/
structure State where
  /-- Program counter (R20). -/
  pc : Word
  /-- Accumulator (R21). -/
  ac : Byte
  /-- Index register X (R22). -/
  x : Byte
  /-- Index register Y (R23). -/
  y : Byte
  /-- Stack pointer (R24). -/
  sp : Byte
  /-- Status register, bits N V - B D I Z C from 7 down (R25, R26). -/
  sr : Byte
  /-- Internal RAM, 2048 bytes (R34). -/
  ram : Memory
  /-- The one cartridge (R36, R37). -/
  cart : Cartridge
  /-- The count the last `Step` returned (spec/40_execution_common.md R200, R205). DESIGN CHOICE
  (log 6). -/
  cycles : Nat
  deriving DecidableEq, Repr

/-- A blank NROM cartridge: one PRG unit whose bytes are all unwritten, no CHR, no flags. It stands in
`State.reset` for the cartridge the host loads. DESIGN CHOICE (log 5). -/
def Cartridge.blank : Cartridge :=
  { prgUnits := 1, prgRom := [], prgRam := none, chrUnits := 0, chr := [], mirroring := false,
    battery := false, trainer := false, mirroringOverride := false, mapper := 0 }

/-- A machine with cartridge `c` before its first reset. No register has a defined value there
(spec/10_state.md R41); all are zero. DESIGN CHOICE (log 3, log 13). -/
def State.powerUp (c : Cartridge) : State :=
  { pc := 0, ac := 0, x := 0, y := 0, sp := 0, sr := 0, ram := [], cart := c, cycles := 0 }

/-- The machine right after `Reset` (spec/10_state.md R41, spec/70_reset_and_hazards.md R340): `sp` and
`sr` at their reset values, `pc` at the word the reset vector holds, which is 0x0000 in the blank
cartridge (log 5); ac, x, y are zero (DESIGN CHOICE, log 3), nothing is listed in memory (log 4), no
step has returned a count (log 6). -/
def State.reset : State :=
  { pc := 0x0000, ac := 0x00, x := 0x00, y := 0x00, sp := Config.resetSp, sr := Config.resetSr,
    ram := [], cart := Cartridge.blank, cycles := 0 }

end Sys2Proof.Machine
end

