-- ==== Sys2Proof/Machine/Ops.lean ====
section
/-! DEFINITION. The named operations over memory and registers: the Memory Block (spec/20_memory.md
part 1), the cartridge's window and the CPU bus (parts 3 and 4), register updates, the stack
(spec/40_execution_common.md R209, R210), the advance of `pc` with the cycle count (R201, R205), the
break sequence (spec/46_jump.md R267) and the return from it (R266). -/

namespace Sys2Proof.Machine

/-! ### Memory Block -/

/-- `Block.fetch_u8(o)` on a block of length `len` (spec/20_memory.md R51). -/
def Block.fetchU8 (len : Nat) (m : Memory) (o : Nat) : Except Fault Byte :=
  if o < len then .ok (Memory.read m o) else .error (.addressOutOfRange o .one)

/-- `Block.fetch_u16(o)`: little-endian, no wrap at the block's end (spec/20_memory.md R52). -/
def Block.fetchU16 (len : Nat) (m : Memory) (o : Nat) : Except Fault Word :=
  if o + 1 < len then .ok (wordOf (Memory.read m (o + 1)) (Memory.read m o))
  else .error (.addressOutOfRange o .two)

/-- `Block.store_u8(o, v)` (spec/20_memory.md R53). -/
def Block.storeU8 (len : Nat) (m : Memory) (o : Nat) (v : Byte) : Except Fault Memory :=
  if o < len then .ok (Memory.write m o v) else .error (.addressOutOfRange o .one)

/-- `Block.store_u16(o, v)`: both bytes or neither (spec/20_memory.md R54). -/
def Block.storeU16 (len : Nat) (m : Memory) (o : Nat) (v : Word) : Except Fault Memory :=
  if o + 1 < len then .ok (Memory.write (Memory.write m o (lowByte v)) (o + 1) (highByte v))
  else .error (.addressOutOfRange o .two)

/-- The result of a block's access as a bus operation at address `a` reports it: an error carries the
bus address, not the block offset (spec/20_memory.md R96, spec/60_exceptions.md R302). -/
def atBus {α : Type} (a : Word) (w : Width) : Except Fault α → Except Fault α
  | .ok v => .ok v
  | .error _ => .error (.addressOutOfRange a.toNat w)

/-! ### The address map -/

/-- The three regions of the CPU bus (spec/20_memory.md R91). -/
inductive Region where
  | ram
  | ppu
  | cart
  deriving DecidableEq, Repr

/-- `addr_to_mem_type(addr)` (spec/20_memory.md R91). -/
def regionOf (a : Word) : Region :=
  if a.toNat < 0x2000 then .ram else if a.toNat < 0x4000 then .ppu else .cart

/-- The physical offset of a RAM address: 2 KiB mirrored four times (spec/20_memory.md R92). -/
def ramOffset (a : Word) : Nat := a.toNat % Config.ramSize

/-- What a cartridge address stands for: ROM, PRG-RAM or nothing (spec/20_memory.md R81, R83, R84). -/
inductive Window where
  | rom
  | prgRam (m : Memory)
  | unbacked
  deriving DecidableEq, Repr

/-- `prg_len` (spec/20_memory.md R64). -/
def Cartridge.prgLen (c : Cartridge) : Nat := c.prgUnits.toNat * Config.prgUnit

/-- `chr_len` (spec/20_memory.md R65). -/
def Cartridge.chrLen (c : Cartridge) : Nat := c.chrUnits.toNat * Config.chrUnit

/-- The window an address of the cartridge region falls in (spec/20_memory.md R81, R83, R84). -/
def Cartridge.window (c : Cartridge) (a : Word) : Window :=
  if Config.prgRomBase ≤ a.toNat then .rom
  else
    match c.prgRam with
    | none => .unbacked
    | some m =>
      if Config.prgRamBase ≤ a.toNat ∧ a.toNat < Config.prgRamBase + Config.prgRamSize then .prgRam m
      else .unbacked

/-- The PRG-ROM offset of an address, mirrored every `prg_len` bytes (spec/20_memory.md R81). -/
def Cartridge.romOffset (c : Cartridge) (a : Word) : Nat := (a.toNat - Config.prgRomBase) % c.prgLen

/-- The PRG-RAM offset of an address (spec/20_memory.md R83). -/
def prgRamOffset (a : Word) : Nat := a.toNat - Config.prgRamBase

/-! ### Register updates -/

/-- `PC <- v`. -/
def State.setPc (s : State) (v : Word) : State := { s with pc := v }

/-- `AC <- v`. -/
def State.setAc (s : State) (v : Byte) : State := { s with ac := v }

/-- `X <- v`. -/
def State.setX (s : State) (v : Byte) : State := { s with x := v }

/-- `Y <- v`. -/
def State.setY (s : State) (v : Byte) : State := { s with y := v }

/-- `SP <- v`. -/
def State.setSp (s : State) (v : Byte) : State := { s with sp := v }

/-- `SR <- v`. -/
def State.setSr (s : State) (v : Byte) : State := { s with sr := v }

/-- The internal RAM's cells become `m`. -/
def State.setRam (s : State) (m : Memory) : State := { s with ram := m }

/-- The PRG-RAM's cells become `m`. -/
def State.setPrgRam (s : State) (m : Memory) : State :=
  { s with cart := { s.cart with prgRam := some m } }

/-- The count that the step returns. -/
def State.setCycles (s : State) (n : Nat) : State := { s with cycles := n }

/-! ### The CPU bus -/

/-- `MemRead(addr, 1)` (spec/20_memory.md R95). -/
def memRead1 (a : Word) (s : State) : Except Fault Byte :=
  match regionOf a with
  | .ram => atBus a .one (Block.fetchU8 Config.ramSize s.ram (ramOffset a))
  | .ppu => .ok Config.ppuReadValue
  | .cart =>
    match s.cart.window a with
    | .rom =>
      if s.cart.prgLen = 0 then .error (.addressOutOfRange a.toNat .one)
      else atBus a .one (Block.fetchU8 s.cart.prgLen s.cart.prgRom (s.cart.romOffset a))
    | .prgRam m => atBus a .one (Block.fetchU8 Config.prgRamSize m (prgRamOffset a))
    | .unbacked => .error (.addressOutOfRange a.toNat .one)

/-- `MemRead(addr, 2)`: the region is chosen by the first address alone (spec/20_memory.md R96). At 0xFFFF
it fails for every PRG-ROM, the ones above 32 KiB included (spec/20_memory.md R81, R86). DEDUCED (log
15), safe. -/
def memRead2 (a : Word) (s : State) : Except Fault Word :=
  match regionOf a with
  | .ram => atBus a .two (Block.fetchU16 Config.ramSize s.ram (ramOffset a))
  | .ppu => .ok (wordOf Config.ppuReadValue Config.ppuReadValue)
  | .cart =>
    match s.cart.window a with
    | .rom =>
      if s.cart.prgLen = 0 ∨ a = 0xFFFF then .error (.addressOutOfRange a.toNat .two)
      else atBus a .two (Block.fetchU16 s.cart.prgLen s.cart.prgRom (s.cart.romOffset a))
    | .prgRam m => atBus a .two (Block.fetchU16 Config.prgRamSize m (prgRamOffset a))
    | .unbacked => .error (.addressOutOfRange a.toNat .two)

/-- The state after a RAM block's store answered. -/
def storedRam (s : State) : Except Fault Memory → Except Fault State
  | .ok m => .ok (s.setRam m)
  | .error f => .error f

/-- The state after a PRG-RAM block's store answered. -/
def storedPrgRam (s : State) : Except Fault Memory → Except Fault State
  | .ok m => .ok (s.setPrgRam m)
  | .error f => .error f

/-- `MemWrite(addr, 1, v)` (spec/20_memory.md R97): a store to the PPU region or to ROM is dropped. -/
def memWrite1 (a : Word) (v : Byte) (s : State) : Except Fault State :=
  match regionOf a with
  | .ram => storedRam s (atBus a .one (Block.storeU8 Config.ramSize s.ram (ramOffset a) v))
  | .ppu => .ok s
  | .cart =>
    match s.cart.window a with
    | .rom => .ok s
    | .prgRam m => storedPrgRam s (atBus a .one (Block.storeU8 Config.prgRamSize m (prgRamOffset a) v))
    | .unbacked => .error (.addressOutOfRange a.toNat .one)

/-- `MemWrite(addr, 2, v)` (spec/20_memory.md R98). No instruction uses it; the host may. -/
def memWrite2 (a : Word) (v : Word) (s : State) : Except Fault State :=
  match regionOf a with
  | .ram => storedRam s (atBus a .two (Block.storeU16 Config.ramSize s.ram (ramOffset a) v))
  | .ppu => .ok s
  | .cart =>
    match s.cart.window a with
    | .rom => .ok s
    | .prgRam m => storedPrgRam s (atBus a .two (Block.storeU16 Config.prgRamSize m (prgRamOffset a) v))
    | .unbacked => .error (.addressOutOfRange a.toNat .two)

/-! ### The stack -/

/-- The bus address of the stack byte that a stack pointer designates (spec/10_state.md R24). -/
def stackAddr (sp : Byte) : Word := Config.stackBase + zext16 sp

/-- `Push(v)`: write, then decrement (spec/40_execution_common.md R209). -/
def push (v : Byte) (s : State) : Except Fault State :=
  match memWrite1 (stackAddr s.sp) v s with
  | .ok t => .ok (t.setSp (s.sp - 1))
  | .error f => .error f

/-- `Push` of a 16-bit value: high byte first, so that the low byte lies at the lower address (R209). -/
def pushWord (w : Word) (s : State) : Except Fault State :=
  match push (highByte w) s with
  | .ok t => push (lowByte w) t
  | .error f => .error f

/-- The byte that `Pull()` yields: the stack pointer is incremented first (R210). -/
def pullByte (s : State) : Except Fault Byte := memRead1 (stackAddr (s.sp + 1)) s

/-- The stack pointer after `Pull()` (R210). -/
def pulled (s : State) : State := s.setSp (s.sp + 1)

/-- The 16-bit value that two pulls yield, low byte first (R210). -/
def pullWord (s : State) : Except Fault Word :=
  match pullByte s with
  | .error f => .error f
  | .ok lo =>
    match pullByte (pulled s) with
    | .error f => .error f
    | .ok hi => .ok (wordOf hi lo)

/-! ### The end of an instruction -/

/-- The end of an instruction that is no control transfer: `pc` moves past its bytes and the step
returns its count (spec/40_execution_common.md R200, R201, R205). -/
def advance (mn : Mnemonic) (md : AddressingMode) (extra : Nat) (s : State) : State :=
  (s.setPc (s.pc + BitVec.ofNat 16 md.length)).setCycles (baseCycles mn md + extra)

/-- The end of a control transfer: `pc` is what the instruction wrote (R201, R202). -/
def transfer (mn : Mnemonic) (md : AddressingMode) (extra : Nat) (target : Word) (s : State) : State :=
  (s.setPc target).setCycles (baseCycles mn md + extra)

/-! ### Entering and leaving a break -/

/-- The break sequence, the block's one entry through a vector: the vector is read first, the address
after the byte that follows BRK and the status byte with bits 5 and 4 set are pushed, I is set, and
`pc` is the vector (spec/46_jump.md R267, canonical; log 1). -/
def enterBreak (s : State) : Except Fault State :=
  match memRead2 Config.breakVector s with
  | .error f => .error f
  | .ok v =>
    match pushWord (s.pc + 2) s with
    | .error f => .error f
    | .ok t =>
      match push (pushedStatus s.sr) t with
      | .error f => .error f
      | .ok u => .ok ((u.setSr (putFlag .interruptDisable true u.sr)).setPc v)

/-- The return from it: the status byte is pulled, bits 5 and 4 of the register kept, then `pc`, low
byte first, with nothing added (spec/46_jump.md R266). -/
def returnFromBreak (s : State) : Except Fault State :=
  match pullByte s with
  | .error f => .error f
  | .ok p =>
    match pullWord (pulled s) with
    | .error f => .error f
    | .ok ret => .ok (((pulled (pulled (pulled s))).setSr (pulledStatus p s.sr)).setPc ret)

/-! ### Placing bytes from outside -/

/-- The state with the byte behind a bus address replaced from outside the machine, ROM included: how
a program's bytes get where the machine fetches them (log 5). -/
def placeByte (a : Word) (v : Byte) (s : State) : State :=
  match regionOf a with
  | .ram => s.setRam (Memory.write s.ram (ramOffset a) v)
  | .ppu => s
  | .cart =>
    match s.cart.window a with
    | .rom =>
      if s.cart.prgLen = 0 then s
      else { s with cart := { s.cart with prgRom := Memory.write s.cart.prgRom (s.cart.romOffset a) v } }
    | .prgRam m => s.setPrgRam (Memory.write m (prgRamOffset a) v)
    | .unbacked => s

/-- Whether a byte can be placed behind a bus address. -/
def placeable (a : Word) (s : State) : Bool :=
  match regionOf a with
  | .ram => true
  | .ppu => false
  | .cart =>
    match s.cart.window a with
    | .rom => decide (s.cart.prgLen ≠ 0)
    | .prgRam _ => true
    | .unbacked => false

/-- Whether a three-byte instruction placed at `a` is fetched whole: its bytes can be placed, and the
16-bit read of its operand does not meet a block's end (spec/70_reset_and_hazards.md R351). -/
def fetchable (a : Word) (s : State) : Bool :=
  placeable a s && placeable (a + 1) s && placeable (a + 2) s && (memRead2 (a + 1) s).isOk

/-- Three bytes placed at ascending addresses from `a`. -/
def placeBytes (a : Word) (b0 b1 b2 : Byte) (s : State) : State :=
  placeByte (a + 2) b2 (placeByte (a + 1) b1 (placeByte a b0 s))

end Sys2Proof.Machine
end

