-- ==== Sys2Proof/Machine/Operands.lean ====
section
/-! DEFINITION. Operand and effective-address resolution for the 13 addressing modes, and the record
the decoder makes of it. Every memory mode reads the byte at its effective address.
spec/30_encoding.md R160 to R183, spec/10_state.md R32, spec/70_reset_and_hazards.md R350. -/

namespace Sys2Proof.Machine

/-- A resolved memory operand: `addr`, `val`, and `base` where the mode has one (spec/10_state.md R32). -/
structure MemRef where
  addr : Word
  val : Byte
  base : Option Word
  deriving DecidableEq, Repr

/-- The reference to the byte at an effective address, which is read now. -/
def refAt (addr : Word) (base : Option Word) (s : State) : Except Fault MemRef :=
  match memRead1 addr s with
  | .ok v => .ok { addr := addr, val := v, base := base }
  | .error f => .error f

/-- The effective address of a zero-page indexed mode (spec/30_encoding.md R174). -/
def zpIndexed (nn i : Byte) : Word :=
  if Config.zpIndexWrap then zext16 (nn + i) else zext16 nn + zext16 i

/-- `ZpRead16(p)` (spec/30_encoding.md R180). -/
def zpRead16 (p : Byte) (s : State) : Except Fault Word :=
  if Config.zpPtrWrap then
    match memRead1 (zext16 p) s with
    | .error f => .error f
    | .ok lo =>
      match memRead1 (zext16 (p + 1)) s with
      | .error f => .error f
      | .ok hi => .ok (wordOf hi lo)
  else memRead2 (zext16 p) s

/-- The resolution of a memory operand (spec/30_encoding.md R173 to R176, R178, R179). -/
def resolveMem (m : MemOperand) (s : State) : Except Fault MemRef :=
  match m with
  | .zp nn => refAt (zext16 nn) none s
  | .zpx nn => refAt (zpIndexed nn s.x) none s
  | .zpy nn => refAt (zpIndexed nn s.y) none s
  | .abs w => refAt w none s
  | .absx w => refAt (w + zext16 s.x) (some w) s
  | .absy w => refAt (w + zext16 s.y) (some w) s
  | .indx nn =>
    match zpRead16 (nn + s.x) s with
    | .ok p => refAt p none s
    | .error f => .error f
  | .indy nn =>
    match zpRead16 nn s with
    | .ok p => refAt (p + zext16 s.y) (some p) s
    | .error f => .error f

/-- The pointer read of `JMP_IND_PAGE_WRAP = true`: both bytes from the pointer's page
(spec/30_encoding.md R177). -/
def readPointerInPage (ptr : Word) (s : State) : Except Fault Word :=
  match memRead1 ptr s with
  | .error f => .error f
  | .ok lo =>
    match memRead1 ((ptr &&& 0xFF00) ||| ((ptr + 1) &&& 0x00FF)) s with
    | .error f => .error f
    | .ok hi => .ok (wordOf hi lo)

/-- The address JMP `ind` finds at its pointer under a value of `JMP_IND_PAGE_WRAP`. The parameter is
asked for only where it matters, when the pointer's low byte is 0xFF; there `refuse` gives no meaning
(`pointerRefused`), and elsewhere it is as `false` (spec/30_encoding.md R177; log 2, log 8). -/
def readPointer (p : PageWrapPolicy) (ptr : Word) (s : State) : Except Fault Word :=
  if lowByte ptr = 0xFF then
    match p with
    | .wrap => readPointerInPage ptr s
    | .straight => memRead2 ptr s
    | .refuse => memRead2 ptr s
  else memRead2 ptr s

/-- Whether a value of `JMP_IND_PAGE_WRAP` gives JMP `ind` no meaning at a pointer
(spec/30_encoding.md R177). -/
def pointerRefused (p : PageWrapPolicy) (ptr : Word) : Bool :=
  decide (lowByte ptr = 0xFF) && decide (p = .refuse)

/-- The resolution of mode `ind` (spec/30_encoding.md R177). -/
def resolveInd (p : PageWrapPolicy) (ptr : Word) (s : State) : Except Fault MemRef :=
  match readPointer p ptr s with
  | .ok a => refAt a none s
  | .error f => .error f

/-- The resolution of mode `rel` for an instruction at `a`: `base` is the address of the next
instruction, `addr` the branch target (spec/30_encoding.md R181). -/
def resolveRel (a : Word) (d : Byte) (s : State) : Except Fault MemRef :=
  refAt (a + 2 + sext16 d) (some (a + 2)) s

/-- The record a decode makes of one instruction (spec/10_state.md R32). -/
structure DecodedOp where
  mnemonic : Mnemonic
  mode : AddressingMode
  cycles : Nat
  length : Nat
  pagePenalty : Bool
  relFixup : Bool
  addr : Option Word
  val : Option Byte
  base : Option Word
  deriving DecidableEq, Repr

/-- The part of the record that the opcode byte settles (spec/30_encoding.md R121). -/
def opShape (mn : Mnemonic) (md : AddressingMode) : DecodedOp :=
  { mnemonic := mn, mode := md, cycles := baseCycles mn md, length := md.length,
    pagePenalty := pagePenalty mn md, relFixup := relFixup md, addr := none, val := none, base := none }

/-- The record with a resolved memory operand in it. -/
def withRef (op : DecodedOp) : Except Fault MemRef → Except Fault DecodedOp
  | .ok r => .ok { op with addr := some r.addr, val := some r.val, base := r.base }
  | .error f => .error f

/-- `Resolve(mode, A)`: the whole record of an instruction at address `a` (spec/30_encoding.md R121,
R170 to R181). -/
def describe (a : Word) (mn : Mnemonic) (o : Operand) (s : State) : Except Fault DecodedOp :=
  match o with
  | .impl => .ok (opShape mn .impl)
  | .acc => .ok { opShape mn .acc with val := some s.ac }
  | .imm nn => .ok { opShape mn .imm with val := some nn }
  | .mem m => withRef (opShape mn m.mode) (resolveMem m s)
  | .rel d => withRef (opShape mn .rel) (resolveRel a d s)
  | .ind w => withRef (opShape mn .ind) (resolveInd Config.openParams.pageWrap w s)

end Sys2Proof.Machine
end

