-- ==== Sys2Proof/Machine/Decoder.lean ====
section
/-! DEFINITION. The decoder on the bus: the reads of one instruction in their order, the record it
makes, and the lookahead over several instructions. Nothing here changes the state.
spec/30_encoding.md R121, R161, R182, R183, R190, R191. -/

namespace Sys2Proof.Machine

/-- The instruction at bus address `a`: the opcode byte is read first; an illegal one is read alone, a
one-byte operand is one byte read, a two-byte operand one 16-bit read (R161, R183). -/
def fetchAt (a : Word) (s : State) : Except Fault Instr :=
  match memRead1 a s with
  | .error f => .error f
  | .ok op =>
    match decodeOpcode op with
    | .one i => .ok i
    | .two k =>
      match memRead1 (a + 1) s with
      | .error f => .error f
      | .ok nn => .ok (k nn)
    | .three k =>
      match memRead2 (a + 1) s with
      | .error f => .error f
      | .ok w => .ok (k w)

/-- The record of an instruction at `a`, or IllegalOpcode (R121, R141). -/
def describeInstr (a : Word) (i : Instr) (s : State) : Except Fault DecodedOp :=
  match i.form with
  | some (mn, o) => describe a mn o s
  | none => .error (.illegalOpcode a i.opcode)

/-- `Decode(A)` (R121). -/
def decodeAt (a : Word) (s : State) : Except Fault DecodedOp :=
  match fetchAt a s with
  | .error f => .error f
  | .ok i => describeInstr a i s

/-- `DecodeN(n, A)`: every record is resolved against the same state; the first error is the result
(R190). -/
def decodeN : Nat → Word → State → Except Fault (List DecodedOp)
  | 0, _, _ => .ok []
  | n + 1, a, s =>
    match decodeAt a s with
    | .error f => .error f
    | .ok op =>
      match decodeN n (a + BitVec.ofNat 16 op.length) s with
      | .error f => .error f
      | .ok ops => .ok (op :: ops)

end Sys2Proof.Machine
end

