-- ==== Sys2Proof/Machine/Execute.lean ====
section
/-! DEFINITION. The shapes of execution that the instruction families share: which operand is resolved,
what is written where, how `pc` and the cycle count end. spec/40_execution_common.md R200 to R207. -/

namespace Sys2Proof.Machine

/-- The page-crossing cycle of R205: one if the form is flagged and the effective address lies in
another page than the base. -/
def pageExtra (mn : Mnemonic) (md : AddressingMode) (r : MemRef) : Nat :=
  match r.base with
  | some b => if pagePenalty mn md && decide (page r.addr ≠ page b) then 1 else 0
  | none => 0

/-- The extra cycles of a branch (R206, `BRANCH_TIMING = canonical`). -/
def branchExtra (taken : Bool) (next target : Word) : Nat :=
  if taken then 1 + (if page target ≠ page next then 1 else 0) else 0

/-- An instruction without operand bytes that is no control transfer. -/
def runImplied (mn : Mnemonic) (f : State → State) (s : State) : Host.Outcome State Fault Refusal :=
  .next (advance mn .impl 0 (f s))

/-- An instruction on its immediate byte (spec/30_encoding.md R172). -/
def runImmediate (mn : Mnemonic) (nn : Byte) (f : Byte → State → State) (s : State) :
    Host.Outcome State Fault Refusal :=
  .next (advance mn .imm 0 (f nn s))

/-- An instruction on the byte a memory operand yields (R204). -/
def runRead (mn : Mnemonic) (m : MemOperand) (f : Byte → State → State) (s : State) :
    Host.Outcome State Fault Refusal :=
  match resolveMem m s with
  | .error e => .fault e
  | .ok r => .next (advance mn m.mode (pageExtra mn m.mode r) (f r.val s))

/-- A store of the byte `v` at the effective address, which has been read before (R204, R211). -/
def runStore (mn : Mnemonic) (m : MemOperand) (v : Byte) (s : State) : Host.Outcome State Fault Refusal :=
  match resolveMem m s with
  | .error e => .fault e
  | .ok r =>
    match memWrite1 r.addr v s with
    | .error e => .fault e
    | .ok t => .next (advance mn m.mode (pageExtra mn m.mode r) t)

/-- A read-modify-write on memory: one write of the result, flags from it even where the write is
dropped (R207). -/
def runModify (mn : Mnemonic) (m : MemOperand) (f : Byte → Byte → Shifted) (s : State) :
    Host.Outcome State Fault Refusal :=
  match resolveMem m s with
  | .error e => .fault e
  | .ok r =>
    match memWrite1 r.addr (f r.val s.sr).r s with
    | .error e => .fault e
    | .ok t => .next (advance mn m.mode (pageExtra mn m.mode r) (t.setSr (f r.val s.sr).sr))

/-- A read-modify-write on the accumulator (R207). -/
def runModifyAcc (mn : Mnemonic) (f : Byte → Byte → Shifted) (s : State) :
    Host.Outcome State Fault Refusal :=
  .next (advance mn .acc 0 ((s.setAc (f s.ac s.sr).r).setSr (f s.ac s.sr).sr))

/-- A conditional branch on one flag being `want` (R206). -/
def runBranch (mn : Mnemonic) (flag : Flag) (want : Bool) (d : Byte) (s : State) :
    Host.Outcome State Fault Refusal :=
  match resolveRel s.pc d s with
  | .error e => .fault e
  | .ok r =>
    let taken := getFlag flag s.sr == want
    .next (transfer mn .rel (branchExtra taken (s.pc + 2) r.addr) (if taken then r.addr else s.pc + 2) s)

end Sys2Proof.Machine
end

