-- ==== Sys2Proof/Machine/Arithmetic.lean ====
section
/-! DEFINITION. Arithmetic, compare, increment and decrement instructions: ADC, SBC, CMP,
CPX, CPY, INC, INX, INY, DEC, DEX, DEY. spec/42_arithmetic.md R236 to R246. -/

namespace Sys2Proof.Machine

/-- The effect of a sum on the accumulator and the flags (R236, R237). -/
def takeSum (t : Sum) (s : State) : State := (s.setAc t.r).setSr (sumFlags t s.sr)

/-- ADC: the accumulator plus the operand plus C; D is ignored (R236). -/
def opAdc (m : Byte) (s : State) : State := takeSum (addWithCarry s.ac m (getFlag .carry s.sr)) s

/-- `ADC #$nn`, opcode 0x69 (R236). -/
def execAdcImm (nn : Byte) (s : State) : Host.Outcome State Fault Refusal := runImmediate .ADC nn opAdc s

/-- `ADC $nn`, opcode 0x65 (R236). -/
def execAdcZp (nn : Byte) (s : State) : Host.Outcome State Fault Refusal := runRead .ADC (.zp nn) opAdc s

/-- `ADC $nn,X`, opcode 0x75 (R236). -/
def execAdcZpX (nn : Byte) (s : State) : Host.Outcome State Fault Refusal := runRead .ADC (.zpx nn) opAdc s

/-- `ADC $nnnn`, opcode 0x6D (R236). -/
def execAdcAbs (w : Word) (s : State) : Host.Outcome State Fault Refusal := runRead .ADC (.abs w) opAdc s

/-- `ADC $nnnn,X`, opcode 0x7D (R236). -/
def execAdcAbsX (w : Word) (s : State) : Host.Outcome State Fault Refusal := runRead .ADC (.absx w) opAdc s

/-- `ADC $nnnn,Y`, opcode 0x79 (R236). -/
def execAdcAbsY (w : Word) (s : State) : Host.Outcome State Fault Refusal := runRead .ADC (.absy w) opAdc s

/-- `ADC ($nn,X)`, opcode 0x61 (R236). -/
def execAdcIndX (nn : Byte) (s : State) : Host.Outcome State Fault Refusal := runRead .ADC (.indx nn) opAdc s

/-- `ADC ($nn),Y`, opcode 0x71 (R236). -/
def execAdcIndY (nn : Byte) (s : State) : Host.Outcome State Fault Refusal := runRead .ADC (.indy nn) opAdc s

/-- SBC: the accumulator minus the operand minus the complement of C; D is ignored (R237). -/
def opSbc (m : Byte) (s : State) : State := takeSum (subWithCarry s.ac m (getFlag .carry s.sr)) s

/-- `SBC #$nn`, opcode 0xE9 (R237). -/
def execSbcImm (nn : Byte) (s : State) : Host.Outcome State Fault Refusal := runImmediate .SBC nn opSbc s

/-- `SBC $nn`, opcode 0xE5 (R237). -/
def execSbcZp (nn : Byte) (s : State) : Host.Outcome State Fault Refusal := runRead .SBC (.zp nn) opSbc s

/-- `SBC $nn,X`, opcode 0xF5 (R237). -/
def execSbcZpX (nn : Byte) (s : State) : Host.Outcome State Fault Refusal := runRead .SBC (.zpx nn) opSbc s

/-- `SBC $nnnn`, opcode 0xED (R237). -/
def execSbcAbs (w : Word) (s : State) : Host.Outcome State Fault Refusal := runRead .SBC (.abs w) opSbc s

/-- `SBC $nnnn,X`, opcode 0xFD (R237). -/
def execSbcAbsX (w : Word) (s : State) : Host.Outcome State Fault Refusal := runRead .SBC (.absx w) opSbc s

/-- `SBC $nnnn,Y`, opcode 0xF9 (R237). -/
def execSbcAbsY (w : Word) (s : State) : Host.Outcome State Fault Refusal := runRead .SBC (.absy w) opSbc s

/-- `SBC ($nn,X)`, opcode 0xE1 (R237). -/
def execSbcIndX (nn : Byte) (s : State) : Host.Outcome State Fault Refusal := runRead .SBC (.indx nn) opSbc s

/-- `SBC ($nn),Y`, opcode 0xF1 (R237). -/
def execSbcIndY (nn : Byte) (s : State) : Host.Outcome State Fault Refusal := runRead .SBC (.indy nn) opSbc s

/-- CMP: C, Z and N from the comparison; the register is not written (R238). -/
def opCmp (m : Byte) (s : State) : State := s.setSr (compareFlags s.ac m s.sr)

/-- `CMP #$nn`, opcode 0xC9 (R238). -/
def execCmpImm (nn : Byte) (s : State) : Host.Outcome State Fault Refusal := runImmediate .CMP nn opCmp s

/-- `CMP $nn`, opcode 0xC5 (R238). -/
def execCmpZp (nn : Byte) (s : State) : Host.Outcome State Fault Refusal := runRead .CMP (.zp nn) opCmp s

/-- `CMP $nn,X`, opcode 0xD5 (R238). -/
def execCmpZpX (nn : Byte) (s : State) : Host.Outcome State Fault Refusal := runRead .CMP (.zpx nn) opCmp s

/-- `CMP $nnnn`, opcode 0xCD (R238). -/
def execCmpAbs (w : Word) (s : State) : Host.Outcome State Fault Refusal := runRead .CMP (.abs w) opCmp s

/-- `CMP $nnnn,X`, opcode 0xDD (R238). -/
def execCmpAbsX (w : Word) (s : State) : Host.Outcome State Fault Refusal := runRead .CMP (.absx w) opCmp s

/-- `CMP $nnnn,Y`, opcode 0xD9 (R238). -/
def execCmpAbsY (w : Word) (s : State) : Host.Outcome State Fault Refusal := runRead .CMP (.absy w) opCmp s

/-- `CMP ($nn,X)`, opcode 0xC1 (R238). -/
def execCmpIndX (nn : Byte) (s : State) : Host.Outcome State Fault Refusal := runRead .CMP (.indx nn) opCmp s

/-- `CMP ($nn),Y`, opcode 0xD1 (R238). -/
def execCmpIndY (nn : Byte) (s : State) : Host.Outcome State Fault Refusal := runRead .CMP (.indy nn) opCmp s

/-- CPX: C, Z and N from the comparison; the register is not written (R239). -/
def opCpx (m : Byte) (s : State) : State := s.setSr (compareFlags s.x m s.sr)

/-- `CPX #$nn`, opcode 0xE0 (R239). -/
def execCpxImm (nn : Byte) (s : State) : Host.Outcome State Fault Refusal := runImmediate .CPX nn opCpx s

/-- `CPX $nn`, opcode 0xE4 (R239). -/
def execCpxZp (nn : Byte) (s : State) : Host.Outcome State Fault Refusal := runRead .CPX (.zp nn) opCpx s

/-- `CPX $nnnn`, opcode 0xEC (R239). -/
def execCpxAbs (w : Word) (s : State) : Host.Outcome State Fault Refusal := runRead .CPX (.abs w) opCpx s

/-- CPY: C, Z and N from the comparison; the register is not written (R240). -/
def opCpy (m : Byte) (s : State) : State := s.setSr (compareFlags s.y m s.sr)

/-- `CPY #$nn`, opcode 0xC0 (R240). -/
def execCpyImm (nn : Byte) (s : State) : Host.Outcome State Fault Refusal := runImmediate .CPY nn opCpy s

/-- `CPY $nn`, opcode 0xC4 (R240). -/
def execCpyZp (nn : Byte) (s : State) : Host.Outcome State Fault Refusal := runRead .CPY (.zp nn) opCpy s

/-- `CPY $nnnn`, opcode 0xCC (R240). -/
def execCpyAbs (w : Word) (s : State) : Host.Outcome State Fault Refusal := runRead .CPY (.abs w) opCpy s

/-- `INC $nn`, opcode 0xE6 (R241). -/
def execIncZp (nn : Byte) (s : State) : Host.Outcome State Fault Refusal :=
  runModify .INC (.zp nn) increment s

/-- `INC $nn,X`, opcode 0xF6 (R241). -/
def execIncZpX (nn : Byte) (s : State) : Host.Outcome State Fault Refusal :=
  runModify .INC (.zpx nn) increment s

/-- `INC $nnnn`, opcode 0xEE (R241). -/
def execIncAbs (w : Word) (s : State) : Host.Outcome State Fault Refusal :=
  runModify .INC (.abs w) increment s

/-- `INC $nnnn,X`, opcode 0xFE (R241). -/
def execIncAbsX (w : Word) (s : State) : Host.Outcome State Fault Refusal :=
  runModify .INC (.absx w) increment s

/-- INX: the register plus 1, modulo 256, N and Z from it (R242). -/
def opInx (s : State) : State := (s.setX (s.x + 1)).setSr (setZN (s.x + 1) s.sr)

/-- `INX`, opcode 0xE8 (R242). -/
def execInx (s : State) : Host.Outcome State Fault Refusal := runImplied .INX opInx s

/-- INY: the register plus 1, modulo 256, N and Z from it (R243). -/
def opIny (s : State) : State := (s.setY (s.y + 1)).setSr (setZN (s.y + 1) s.sr)

/-- `INY`, opcode 0xC8 (R243). -/
def execIny (s : State) : Host.Outcome State Fault Refusal := runImplied .INY opIny s

/-- `DEC $nn`, opcode 0xC6 (R244). -/
def execDecZp (nn : Byte) (s : State) : Host.Outcome State Fault Refusal :=
  runModify .DEC (.zp nn) decrement s

/-- `DEC $nn,X`, opcode 0xD6 (R244). -/
def execDecZpX (nn : Byte) (s : State) : Host.Outcome State Fault Refusal :=
  runModify .DEC (.zpx nn) decrement s

/-- `DEC $nnnn`, opcode 0xCE (R244). -/
def execDecAbs (w : Word) (s : State) : Host.Outcome State Fault Refusal :=
  runModify .DEC (.abs w) decrement s

/-- `DEC $nnnn,X`, opcode 0xDE (R244). -/
def execDecAbsX (w : Word) (s : State) : Host.Outcome State Fault Refusal :=
  runModify .DEC (.absx w) decrement s

/-- DEX: the register minus 1, modulo 256, N and Z from it (R245). -/
def opDex (s : State) : State := (s.setX (s.x - 1)).setSr (setZN (s.x - 1) s.sr)

/-- `DEX`, opcode 0xCA (R245). -/
def execDex (s : State) : Host.Outcome State Fault Refusal := runImplied .DEX opDex s

/-- DEY: the register minus 1, modulo 256, N and Z from it (R246). -/
def opDey (s : State) : State := (s.setY (s.y - 1)).setSr (setZN (s.y - 1) s.sr)

/-- `DEY`, opcode 0x88 (R246). -/
def execDey (s : State) : Host.Outcome State Fault Refusal := runImplied .DEY opDey s

end Sys2Proof.Machine
end

