-- ==== Sys2Proof/Machine/Branch.lean ====
section
/-! DEFINITION. Conditional branches: BPL, BMI, BVC, BVS, BCC, BCS, BNE, BEQ.
spec/45_branch.md R255 to R262. -/

namespace Sys2Proof.Machine

/-- `BPL $nnnn (target)`, opcode 0x10 (R255). -/
def execBpl (d : Byte) (s : State) : Host.Outcome State Fault Refusal := runBranch .BPL .negative false d s

/-- `BMI $nnnn (target)`, opcode 0x30 (R256). -/
def execBmi (d : Byte) (s : State) : Host.Outcome State Fault Refusal := runBranch .BMI .negative true d s

/-- `BVC $nnnn (target)`, opcode 0x50 (R257). -/
def execBvc (d : Byte) (s : State) : Host.Outcome State Fault Refusal := runBranch .BVC .overflow false d s

/-- `BVS $nnnn (target)`, opcode 0x70 (R258). -/
def execBvs (d : Byte) (s : State) : Host.Outcome State Fault Refusal := runBranch .BVS .overflow true d s

/-- `BCC $nnnn (target)`, opcode 0x90 (R259). -/
def execBcc (d : Byte) (s : State) : Host.Outcome State Fault Refusal := runBranch .BCC .carry false d s

/-- `BCS $nnnn (target)`, opcode 0xB0 (R260). -/
def execBcs (d : Byte) (s : State) : Host.Outcome State Fault Refusal := runBranch .BCS .carry true d s

/-- `BNE $nnnn (target)`, opcode 0xD0 (R261). -/
def execBne (d : Byte) (s : State) : Host.Outcome State Fault Refusal := runBranch .BNE .zero false d s

/-- `BEQ $nnnn (target)`, opcode 0xF0 (R262). -/
def execBeq (d : Byte) (s : State) : Host.Outcome State Fault Refusal := runBranch .BEQ .zero true d s

end Sys2Proof.Machine
end

