-- ==== Sys2Proof/Machine/FlagOps.lean ====
section
/-! DEFINITION. Flag instructions: CLC, SEC, CLI, SEI, CLV, CLD, SED; each writes one bit of sr.
spec/48_flag.md R272 to R278. -/

namespace Sys2Proof.Machine

/-- One flag is written (R272 to R278). -/
def opFlag (f : Flag) (v : Bool) (s : State) : State := s.setSr (putFlag f v s.sr)

/-- `CLC`, opcode 0x18 (R272). -/
def execClc (s : State) : Host.Outcome State Fault Refusal := runImplied .CLC (opFlag .carry false) s

/-- `SEC`, opcode 0x38 (R273). -/
def execSec (s : State) : Host.Outcome State Fault Refusal := runImplied .SEC (opFlag .carry true) s

/-- `CLI`, opcode 0x58 (R274). -/
def execCli (s : State) : Host.Outcome State Fault Refusal :=
  runImplied .CLI (opFlag .interruptDisable false) s

/-- `SEI`, opcode 0x78 (R275). -/
def execSei (s : State) : Host.Outcome State Fault Refusal :=
  runImplied .SEI (opFlag .interruptDisable true) s

/-- `CLV`, opcode 0xB8 (R276). -/
def execClv (s : State) : Host.Outcome State Fault Refusal := runImplied .CLV (opFlag .overflow false) s

/-- `CLD`, opcode 0xD8 (R277). -/
def execCld (s : State) : Host.Outcome State Fault Refusal := runImplied .CLD (opFlag .decimal false) s

/-- `SED`, opcode 0xF8 (R278). -/
def execSed (s : State) : Host.Outcome State Fault Refusal := runImplied .SED (opFlag .decimal true) s

end Sys2Proof.Machine
end

