-- ==== Sys2Proof/Machine/Illegal.lean ====
section
/-! DEFINITION. The 105 bytes that are no instruction. spec/30_encoding.md R141,
spec/60_exceptions.md R303. -/

namespace Sys2Proof.Machine

/-- An illegal byte at `pc`: the step ends in IllegalOpcode with its address and the byte, nothing is
changed (R141, R303, R313). -/
def execIllegal (byte : Byte) (s : State) : Host.Outcome State Fault Refusal :=
  .fault (.illegalOpcode s.pc byte)

end Sys2Proof.Machine
end

