-- ==== Sys2Proof/Machine/Jump.lean ====
section
/-! DEFINITION. Jump, subroutine, return and break instructions: JMP, JSR, RTS, RTI, BRK.
spec/46_jump.md R263 to R267. -/

namespace Sys2Proof.Machine

/-- JMP: `pc` takes the effective address, whose byte has been read (R263). -/
def runJump (md : AddressingMode) (target : Except Fault MemRef) (s : State) : Host.Outcome State Fault Refusal :=
  match target with
  | .error e => .fault e
  | .ok r => .next (transfer .JMP md 0 r.addr s)

/-- `JMP $nnnn`, opcode 0x4C (R263). -/
def execJmpAbs (w : Word) (s : State) : Host.Outcome State Fault Refusal :=
  runJump .abs (resolveMem (.abs w) s) s

/-- `JMP ($nnnn)` under a value of `JMP_IND_PAGE_WRAP` (R263, spec/30_encoding.md R177). -/
def runJumpInd (p : PageWrapPolicy) (w : Word) (s : State) : Host.Outcome State Fault Refusal :=
  if pointerRefused p w then .refused (.jmpIndPageWrap w) else runJump .ind (resolveInd p w s) s

/-- `JMP ($nnnn)`, opcode 0x6C (R263; log 2). -/
def execJmpInd (w : Word) (s : State) : Host.Outcome State Fault Refusal :=
  runJumpInd Config.openParams.pageWrap w s

/-- `JSR $nnnn`, opcode 0x20: the address of its own last byte is pushed, high byte first (R264). -/
def execJsr (w : Word) (s : State) : Host.Outcome State Fault Refusal :=
  match resolveMem (.abs w) s with
  | .error e => .fault e
  | .ok r =>
    match pushWord (s.pc + 2) s with
    | .error e => .fault e
    | .ok t => .next (transfer .JSR .abs 0 r.addr t)

/-- `RTS`, opcode 0x60: `pc` is the pulled word plus one (R265). -/
def execRts (s : State) : Host.Outcome State Fault Refusal :=
  match pullWord s with
  | .error e => .fault e
  | .ok ret => .next (transfer .RTS .impl 0 (ret + 1) (pulled (pulled s)))

/-- `RTI`, opcode 0x40: status and `pc` are pulled (R266). -/
def execRti (s : State) : Host.Outcome State Fault Refusal :=
  match returnFromBreak s with
  | .error e => .fault e
  | .ok t => .next (transfer .RTI .impl 0 t.pc t)

/-- BRK under a value of `BRK_POLICY`: no meaning, or the break sequence (R267). -/
def runBreak (p : BrkPolicy) (s : State) : Host.Outcome State Fault Refusal :=
  match p with
  | .refuse => .refused (.brkPolicy s.pc)
  | .canonical =>
    match enterBreak s with
    | .error e => .fault e
    | .ok t => .next (transfer .BRK .impl 0 t.pc t)

/-- `BRK`, opcode 0x00: the break sequence (R267, canonical; log 1). -/
def execBrk (s : State) : Host.Outcome State Fault Refusal := runBreak Config.openParams.brk s

end Sys2Proof.Machine
end

