-- ==== Sys2Proof/Machine/LoadStore.lean ====
section
/-! DEFINITION. Load and store instructions: LDA, LDX, LDY, STA, STX, STY.
spec/41_load_store.md R230 to R235. -/

namespace Sys2Proof.Machine

/-- LDA: the register takes the operand byte, N and Z follow it (R230). -/
def opLda (m : Byte) (s : State) : State := (s.setAc m).setSr (setZN m s.sr)

/-- `LDA #$nn`, opcode 0xA9 (R230). -/
def execLdaImm (nn : Byte) (s : State) : Host.Outcome State Fault Refusal := runImmediate .LDA nn opLda s

/-- `LDA $nn`, opcode 0xA5 (R230). -/
def execLdaZp (nn : Byte) (s : State) : Host.Outcome State Fault Refusal := runRead .LDA (.zp nn) opLda s

/-- `LDA $nn,X`, opcode 0xB5 (R230). -/
def execLdaZpX (nn : Byte) (s : State) : Host.Outcome State Fault Refusal := runRead .LDA (.zpx nn) opLda s

/-- `LDA $nnnn`, opcode 0xAD (R230). -/
def execLdaAbs (w : Word) (s : State) : Host.Outcome State Fault Refusal := runRead .LDA (.abs w) opLda s

/-- `LDA $nnnn,X`, opcode 0xBD (R230). -/
def execLdaAbsX (w : Word) (s : State) : Host.Outcome State Fault Refusal := runRead .LDA (.absx w) opLda s

/-- `LDA $nnnn,Y`, opcode 0xB9 (R230). -/
def execLdaAbsY (w : Word) (s : State) : Host.Outcome State Fault Refusal := runRead .LDA (.absy w) opLda s

/-- `LDA ($nn,X)`, opcode 0xA1 (R230). -/
def execLdaIndX (nn : Byte) (s : State) : Host.Outcome State Fault Refusal := runRead .LDA (.indx nn) opLda s

/-- `LDA ($nn),Y`, opcode 0xB1 (R230). -/
def execLdaIndY (nn : Byte) (s : State) : Host.Outcome State Fault Refusal := runRead .LDA (.indy nn) opLda s

/-- LDX: the register takes the operand byte, N and Z follow it (R231). -/
def opLdx (m : Byte) (s : State) : State := (s.setX m).setSr (setZN m s.sr)

/-- `LDX #$nn`, opcode 0xA2 (R231). -/
def execLdxImm (nn : Byte) (s : State) : Host.Outcome State Fault Refusal := runImmediate .LDX nn opLdx s

/-- `LDX $nn`, opcode 0xA6 (R231). -/
def execLdxZp (nn : Byte) (s : State) : Host.Outcome State Fault Refusal := runRead .LDX (.zp nn) opLdx s

/-- `LDX $nn,Y`, opcode 0xB6 (R231). -/
def execLdxZpY (nn : Byte) (s : State) : Host.Outcome State Fault Refusal := runRead .LDX (.zpy nn) opLdx s

/-- `LDX $nnnn`, opcode 0xAE (R231). -/
def execLdxAbs (w : Word) (s : State) : Host.Outcome State Fault Refusal := runRead .LDX (.abs w) opLdx s

/-- `LDX $nnnn,Y`, opcode 0xBE (R231). -/
def execLdxAbsY (w : Word) (s : State) : Host.Outcome State Fault Refusal := runRead .LDX (.absy w) opLdx s

/-- LDY: the register takes the operand byte, N and Z follow it (R232). -/
def opLdy (m : Byte) (s : State) : State := (s.setY m).setSr (setZN m s.sr)

/-- `LDY #$nn`, opcode 0xA0 (R232). -/
def execLdyImm (nn : Byte) (s : State) : Host.Outcome State Fault Refusal := runImmediate .LDY nn opLdy s

/-- `LDY $nn`, opcode 0xA4 (R232). -/
def execLdyZp (nn : Byte) (s : State) : Host.Outcome State Fault Refusal := runRead .LDY (.zp nn) opLdy s

/-- `LDY $nn,X`, opcode 0xB4 (R232). -/
def execLdyZpX (nn : Byte) (s : State) : Host.Outcome State Fault Refusal := runRead .LDY (.zpx nn) opLdy s

/-- `LDY $nnnn`, opcode 0xAC (R232). -/
def execLdyAbs (w : Word) (s : State) : Host.Outcome State Fault Refusal := runRead .LDY (.abs w) opLdy s

/-- `LDY $nnnn,X`, opcode 0xBC (R232). -/
def execLdyAbsX (w : Word) (s : State) : Host.Outcome State Fault Refusal := runRead .LDY (.absx w) opLdy s

/-- `STA $nn`, opcode 0x85 (R233). -/
def execStaZp (nn : Byte) (s : State) : Host.Outcome State Fault Refusal := runStore .STA (.zp nn) s.ac s

/-- `STA $nn,X`, opcode 0x95 (R233). -/
def execStaZpX (nn : Byte) (s : State) : Host.Outcome State Fault Refusal := runStore .STA (.zpx nn) s.ac s

/-- `STA $nnnn`, opcode 0x8D (R233). -/
def execStaAbs (w : Word) (s : State) : Host.Outcome State Fault Refusal := runStore .STA (.abs w) s.ac s

/-- `STA $nnnn,X`, opcode 0x9D (R233). -/
def execStaAbsX (w : Word) (s : State) : Host.Outcome State Fault Refusal := runStore .STA (.absx w) s.ac s

/-- `STA $nnnn,Y`, opcode 0x99 (R233). -/
def execStaAbsY (w : Word) (s : State) : Host.Outcome State Fault Refusal := runStore .STA (.absy w) s.ac s

/-- `STA ($nn,X)`, opcode 0x81 (R233). -/
def execStaIndX (nn : Byte) (s : State) : Host.Outcome State Fault Refusal := runStore .STA (.indx nn) s.ac s

/-- `STA ($nn),Y`, opcode 0x91 (R233). -/
def execStaIndY (nn : Byte) (s : State) : Host.Outcome State Fault Refusal := runStore .STA (.indy nn) s.ac s

/-- `STX $nn`, opcode 0x86 (R234). -/
def execStxZp (nn : Byte) (s : State) : Host.Outcome State Fault Refusal := runStore .STX (.zp nn) s.x s

/-- `STX $nn,Y`, opcode 0x96 (R234). -/
def execStxZpY (nn : Byte) (s : State) : Host.Outcome State Fault Refusal := runStore .STX (.zpy nn) s.x s

/-- `STX $nnnn`, opcode 0x8E (R234). -/
def execStxAbs (w : Word) (s : State) : Host.Outcome State Fault Refusal := runStore .STX (.abs w) s.x s

/-- `STY $nn`, opcode 0x84 (R235). -/
def execStyZp (nn : Byte) (s : State) : Host.Outcome State Fault Refusal := runStore .STY (.zp nn) s.y s

/-- `STY $nn,X`, opcode 0x94 (R235). -/
def execStyZpX (nn : Byte) (s : State) : Host.Outcome State Fault Refusal := runStore .STY (.zpx nn) s.y s

/-- `STY $nnnn`, opcode 0x8C (R235). -/
def execStyAbs (w : Word) (s : State) : Host.Outcome State Fault Refusal := runStore .STY (.abs w) s.y s

end Sys2Proof.Machine
end

