-- ==== Sys2Proof/Machine/Logical.lean ====
section
/-! DEFINITION. Logical instructions: AND, ORA, EOR, BIT. spec/43_logical.md R247 to R250. -/

namespace Sys2Proof.Machine

/-- AND: the result goes to the accumulator, N and Z follow it (R247). -/
def opAnd (m : Byte) (s : State) : State := (s.setAc (s.ac &&& m)).setSr (setZN (s.ac &&& m) s.sr)

/-- `AND #$nn`, opcode 0x29 (R247). -/
def execAndImm (nn : Byte) (s : State) : Host.Outcome State Fault Refusal := runImmediate .AND nn opAnd s

/-- `AND $nn`, opcode 0x25 (R247). -/
def execAndZp (nn : Byte) (s : State) : Host.Outcome State Fault Refusal := runRead .AND (.zp nn) opAnd s

/-- `AND $nn,X`, opcode 0x35 (R247). -/
def execAndZpX (nn : Byte) (s : State) : Host.Outcome State Fault Refusal := runRead .AND (.zpx nn) opAnd s

/-- `AND $nnnn`, opcode 0x2D (R247). -/
def execAndAbs (w : Word) (s : State) : Host.Outcome State Fault Refusal := runRead .AND (.abs w) opAnd s

/-- `AND $nnnn,X`, opcode 0x3D (R247). -/
def execAndAbsX (w : Word) (s : State) : Host.Outcome State Fault Refusal := runRead .AND (.absx w) opAnd s

/-- `AND $nnnn,Y`, opcode 0x39 (R247). -/
def execAndAbsY (w : Word) (s : State) : Host.Outcome State Fault Refusal := runRead .AND (.absy w) opAnd s

/-- `AND ($nn,X)`, opcode 0x21 (R247). -/
def execAndIndX (nn : Byte) (s : State) : Host.Outcome State Fault Refusal := runRead .AND (.indx nn) opAnd s

/-- `AND ($nn),Y`, opcode 0x31 (R247). -/
def execAndIndY (nn : Byte) (s : State) : Host.Outcome State Fault Refusal := runRead .AND (.indy nn) opAnd s

/-- ORA: the result goes to the accumulator, N and Z follow it (R248). -/
def opOra (m : Byte) (s : State) : State := (s.setAc (s.ac ||| m)).setSr (setZN (s.ac ||| m) s.sr)

/-- `ORA #$nn`, opcode 0x09 (R248). -/
def execOraImm (nn : Byte) (s : State) : Host.Outcome State Fault Refusal := runImmediate .ORA nn opOra s

/-- `ORA $nn`, opcode 0x05 (R248). -/
def execOraZp (nn : Byte) (s : State) : Host.Outcome State Fault Refusal := runRead .ORA (.zp nn) opOra s

/-- `ORA $nn,X`, opcode 0x15 (R248). -/
def execOraZpX (nn : Byte) (s : State) : Host.Outcome State Fault Refusal := runRead .ORA (.zpx nn) opOra s

/-- `ORA $nnnn`, opcode 0x0D (R248). -/
def execOraAbs (w : Word) (s : State) : Host.Outcome State Fault Refusal := runRead .ORA (.abs w) opOra s

/-- `ORA $nnnn,X`, opcode 0x1D (R248). -/
def execOraAbsX (w : Word) (s : State) : Host.Outcome State Fault Refusal := runRead .ORA (.absx w) opOra s

/-- `ORA $nnnn,Y`, opcode 0x19 (R248). -/
def execOraAbsY (w : Word) (s : State) : Host.Outcome State Fault Refusal := runRead .ORA (.absy w) opOra s

/-- `ORA ($nn,X)`, opcode 0x01 (R248). -/
def execOraIndX (nn : Byte) (s : State) : Host.Outcome State Fault Refusal := runRead .ORA (.indx nn) opOra s

/-- `ORA ($nn),Y`, opcode 0x11 (R248). -/
def execOraIndY (nn : Byte) (s : State) : Host.Outcome State Fault Refusal := runRead .ORA (.indy nn) opOra s

/-- EOR: the result goes to the accumulator, N and Z follow it (R249). -/
def opEor (m : Byte) (s : State) : State := (s.setAc (s.ac ^^^ m)).setSr (setZN (s.ac ^^^ m) s.sr)

/-- `EOR #$nn`, opcode 0x49 (R249). -/
def execEorImm (nn : Byte) (s : State) : Host.Outcome State Fault Refusal := runImmediate .EOR nn opEor s

/-- `EOR $nn`, opcode 0x45 (R249). -/
def execEorZp (nn : Byte) (s : State) : Host.Outcome State Fault Refusal := runRead .EOR (.zp nn) opEor s

/-- `EOR $nn,X`, opcode 0x55 (R249). -/
def execEorZpX (nn : Byte) (s : State) : Host.Outcome State Fault Refusal := runRead .EOR (.zpx nn) opEor s

/-- `EOR $nnnn`, opcode 0x4D (R249). -/
def execEorAbs (w : Word) (s : State) : Host.Outcome State Fault Refusal := runRead .EOR (.abs w) opEor s

/-- `EOR $nnnn,X`, opcode 0x5D (R249). -/
def execEorAbsX (w : Word) (s : State) : Host.Outcome State Fault Refusal := runRead .EOR (.absx w) opEor s

/-- `EOR $nnnn,Y`, opcode 0x59 (R249). -/
def execEorAbsY (w : Word) (s : State) : Host.Outcome State Fault Refusal := runRead .EOR (.absy w) opEor s

/-- `EOR ($nn,X)`, opcode 0x41 (R249). -/
def execEorIndX (nn : Byte) (s : State) : Host.Outcome State Fault Refusal := runRead .EOR (.indx nn) opEor s

/-- `EOR ($nn),Y`, opcode 0x51 (R249). -/
def execEorIndY (nn : Byte) (s : State) : Host.Outcome State Fault Refusal := runRead .EOR (.indy nn) opEor s

/-- BIT: Z from the and, N and V from the operand; nothing else is written (R250). -/
def opBit (m : Byte) (s : State) : State := s.setSr (bitFlags s.ac m s.sr)

/-- `BIT $nn`, opcode 0x24 (R250). -/
def execBitZp (nn : Byte) (s : State) : Host.Outcome State Fault Refusal := runRead .BIT (.zp nn) opBit s

/-- `BIT $nnnn`, opcode 0x2C (R250). -/
def execBitAbs (w : Word) (s : State) : Host.Outcome State Fault Refusal := runRead .BIT (.abs w) opBit s

end Sys2Proof.Machine
end

