-- ==== Sys2Proof/Machine/ShiftRotate.lean ====
section
/-! DEFINITION. Shift and rotate instructions: ASL, LSR, ROL, ROR.
spec/44_shift_rotate.md R251 to R254. -/

namespace Sys2Proof.Machine

/-- `ASL A`, opcode 0x0A (R251). -/
def execAslAcc (s : State) : Host.Outcome State Fault Refusal := runModifyAcc .ASL shiftLeft s

/-- `ASL $nn`, opcode 0x06 (R251). -/
def execAslZp (nn : Byte) (s : State) : Host.Outcome State Fault Refusal :=
  runModify .ASL (.zp nn) shiftLeft s

/-- `ASL $nn,X`, opcode 0x16 (R251). -/
def execAslZpX (nn : Byte) (s : State) : Host.Outcome State Fault Refusal :=
  runModify .ASL (.zpx nn) shiftLeft s

/-- `ASL $nnnn`, opcode 0x0E (R251). -/
def execAslAbs (w : Word) (s : State) : Host.Outcome State Fault Refusal :=
  runModify .ASL (.abs w) shiftLeft s

/-- `ASL $nnnn,X`, opcode 0x1E (R251). -/
def execAslAbsX (w : Word) (s : State) : Host.Outcome State Fault Refusal :=
  runModify .ASL (.absx w) shiftLeft s

/-- `LSR A`, opcode 0x4A (R252). -/
def execLsrAcc (s : State) : Host.Outcome State Fault Refusal := runModifyAcc .LSR shiftRight s

/-- `LSR $nn`, opcode 0x46 (R252). -/
def execLsrZp (nn : Byte) (s : State) : Host.Outcome State Fault Refusal :=
  runModify .LSR (.zp nn) shiftRight s

/-- `LSR $nn,X`, opcode 0x56 (R252). -/
def execLsrZpX (nn : Byte) (s : State) : Host.Outcome State Fault Refusal :=
  runModify .LSR (.zpx nn) shiftRight s

/-- `LSR $nnnn`, opcode 0x4E (R252). -/
def execLsrAbs (w : Word) (s : State) : Host.Outcome State Fault Refusal :=
  runModify .LSR (.abs w) shiftRight s

/-- `LSR $nnnn,X`, opcode 0x5E (R252). -/
def execLsrAbsX (w : Word) (s : State) : Host.Outcome State Fault Refusal :=
  runModify .LSR (.absx w) shiftRight s

/-- `ROL A`, opcode 0x2A (R253). -/
def execRolAcc (s : State) : Host.Outcome State Fault Refusal := runModifyAcc .ROL rotateLeft s

/-- `ROL $nn`, opcode 0x26 (R253). -/
def execRolZp (nn : Byte) (s : State) : Host.Outcome State Fault Refusal :=
  runModify .ROL (.zp nn) rotateLeft s

/-- `ROL $nn,X`, opcode 0x36 (R253). -/
def execRolZpX (nn : Byte) (s : State) : Host.Outcome State Fault Refusal :=
  runModify .ROL (.zpx nn) rotateLeft s

/-- `ROL $nnnn`, opcode 0x2E (R253). -/
def execRolAbs (w : Word) (s : State) : Host.Outcome State Fault Refusal :=
  runModify .ROL (.abs w) rotateLeft s

/-- `ROL $nnnn,X`, opcode 0x3E (R253). -/
def execRolAbsX (w : Word) (s : State) : Host.Outcome State Fault Refusal :=
  runModify .ROL (.absx w) rotateLeft s

/-- `ROR A`, opcode 0x6A (R254). -/
def execRorAcc (s : State) : Host.Outcome State Fault Refusal := runModifyAcc .ROR rotateRight s

/-- `ROR $nn`, opcode 0x66 (R254). -/
def execRorZp (nn : Byte) (s : State) : Host.Outcome State Fault Refusal :=
  runModify .ROR (.zp nn) rotateRight s

/-- `ROR $nn,X`, opcode 0x76 (R254). -/
def execRorZpX (nn : Byte) (s : State) : Host.Outcome State Fault Refusal :=
  runModify .ROR (.zpx nn) rotateRight s

/-- `ROR $nnnn`, opcode 0x6E (R254). -/
def execRorAbs (w : Word) (s : State) : Host.Outcome State Fault Refusal :=
  runModify .ROR (.abs w) rotateRight s

/-- `ROR $nnnn,X`, opcode 0x7E (R254). -/
def execRorAbsX (w : Word) (s : State) : Host.Outcome State Fault Refusal :=
  runModify .ROR (.absx w) rotateRight s

end Sys2Proof.Machine
end

