-- ==== Sys2Proof/Machine/Stack.lean ====
section
/-! DEFINITION. Stack instructions: PHA, PHP, PLA, PLP. spec/47_stack.md R268 to R271. -/

namespace Sys2Proof.Machine

/-- A push of the byte `v` as the whole effect (R268, R269). -/
def runPush (mn : Mnemonic) (v : Byte) (s : State) : Host.Outcome State Fault Refusal :=
  match push v s with
  | .error e => .fault e
  | .ok t => .next (advance mn .impl 0 t)

/-- A pull whose byte `f` puts where it belongs (R270, R271). -/
def runPull (mn : Mnemonic) (f : Byte → State → State) (s : State) : Host.Outcome State Fault Refusal :=
  match pullByte s with
  | .error e => .fault e
  | .ok v => .next (advance mn .impl 0 (f v (pulled s)))

/-- `PHA`, opcode 0x48 (R268). -/
def execPha (s : State) : Host.Outcome State Fault Refusal := runPush .PHA s.ac s

/-- `PHP`, opcode 0x08 (R269). -/
def execPhp (s : State) : Host.Outcome State Fault Refusal := runPush .PHP (pushedStatus s.sr) s

/-- PLA: the accumulator takes the pulled byte, N and Z follow it (R270). -/
def opPla (v : Byte) (s : State) : State := (s.setAc v).setSr (setZN v s.sr)

/-- `PLA`, opcode 0x68 (R270). -/
def execPla (s : State) : Host.Outcome State Fault Refusal := runPull .PLA opPla s

/-- PLP: the status register takes the pulled byte but for bits 5 and 4 (R271). -/
def opPlp (v : Byte) (s : State) : State := s.setSr (pulledStatus v s.sr)

/-- `PLP`, opcode 0x28 (R271). -/
def execPlp (s : State) : Host.Outcome State Fault Refusal := runPull .PLP opPlp s

end Sys2Proof.Machine
end

