-- ==== Sys2Proof/Machine/TransferNop.lean ====
section
/-! DEFINITION. Register transfers and NOP: TAX, TAY, TXA, TYA, TSX, TXS, NOP.
spec/49_transfer_nop.md R279 to R285. -/

namespace Sys2Proof.Machine

/-- TAX: the byte is moved, N and Z follow it (R279). -/
def opTax (s : State) : State := (s.setX s.ac).setSr (setZN s.ac s.sr)

/-- `TAX`, opcode 0xAA (R279). -/
def execTax (s : State) : Host.Outcome State Fault Refusal := runImplied .TAX opTax s

/-- TAY: the byte is moved, N and Z follow it (R280). -/
def opTay (s : State) : State := (s.setY s.ac).setSr (setZN s.ac s.sr)

/-- `TAY`, opcode 0xA8 (R280). -/
def execTay (s : State) : Host.Outcome State Fault Refusal := runImplied .TAY opTay s

/-- TXA: the byte is moved, N and Z follow it (R281). -/
def opTxa (s : State) : State := (s.setAc s.x).setSr (setZN s.x s.sr)

/-- `TXA`, opcode 0x8A (R281). -/
def execTxa (s : State) : Host.Outcome State Fault Refusal := runImplied .TXA opTxa s

/-- TYA: the byte is moved, N and Z follow it (R282). -/
def opTya (s : State) : State := (s.setAc s.y).setSr (setZN s.y s.sr)

/-- `TYA`, opcode 0x98 (R282). -/
def execTya (s : State) : Host.Outcome State Fault Refusal := runImplied .TYA opTya s

/-- TSX: the byte is moved, N and Z follow it (R283). -/
def opTsx (s : State) : State := (s.setX s.sp).setSr (setZN s.sp s.sr)

/-- `TSX`, opcode 0xBA (R283). -/
def execTsx (s : State) : Host.Outcome State Fault Refusal := runImplied .TSX opTsx s

/-- TXS: the byte is moved, no flag is written (R284). -/
def opTxs (s : State) : State := s.setSp s.x

/-- `TXS`, opcode 0x9A (R284). -/
def execTxs (s : State) : Host.Outcome State Fault Refusal := runImplied .TXS opTxs s

/-- `NOP`, opcode 0xEA (R285). -/
def execNop (s : State) : Host.Outcome State Fault Refusal := runImplied .NOP id s

end Sys2Proof.Machine
end

