-- ==== Sys2Proof/Machine/Dispatch.lean ====
section
/-! DEFINITION. The dispatch of an instruction to its meaning, one arm a constructor. -/

namespace Sys2Proof.Machine

/-- The execution of one instruction at `pc`: operand resolution, effect, `pc` and the returned count
(spec/40_execution_common.md R200, R203). -/
def exec (i : Instr) (s : State) : Host.Outcome State Fault Refusal :=
  match i with
  | .ldaImm nn => Sys2Proof.Machine.execLdaImm nn s
  | .ldaZp nn => Sys2Proof.Machine.execLdaZp nn s
  | .ldaZpX nn => Sys2Proof.Machine.execLdaZpX nn s
  | .ldaAbs w => Sys2Proof.Machine.execLdaAbs w s
  | .ldaAbsX w => Sys2Proof.Machine.execLdaAbsX w s
  | .ldaAbsY w => Sys2Proof.Machine.execLdaAbsY w s
  | .ldaIndX nn => Sys2Proof.Machine.execLdaIndX nn s
  | .ldaIndY nn => Sys2Proof.Machine.execLdaIndY nn s
  | .ldxImm nn => Sys2Proof.Machine.execLdxImm nn s
  | .ldxZp nn => Sys2Proof.Machine.execLdxZp nn s
  | .ldxZpY nn => Sys2Proof.Machine.execLdxZpY nn s
  | .ldxAbs w => Sys2Proof.Machine.execLdxAbs w s
  | .ldxAbsY w => Sys2Proof.Machine.execLdxAbsY w s
  | .ldyImm nn => Sys2Proof.Machine.execLdyImm nn s
  | .ldyZp nn => Sys2Proof.Machine.execLdyZp nn s
  | .ldyZpX nn => Sys2Proof.Machine.execLdyZpX nn s
  | .ldyAbs w => Sys2Proof.Machine.execLdyAbs w s
  | .ldyAbsX w => Sys2Proof.Machine.execLdyAbsX w s
  | .staZp nn => Sys2Proof.Machine.execStaZp nn s
  | .staZpX nn => Sys2Proof.Machine.execStaZpX nn s
  | .staAbs w => Sys2Proof.Machine.execStaAbs w s
  | .staAbsX w => Sys2Proof.Machine.execStaAbsX w s
  | .staAbsY w => Sys2Proof.Machine.execStaAbsY w s
  | .staIndX nn => Sys2Proof.Machine.execStaIndX nn s
  | .staIndY nn => Sys2Proof.Machine.execStaIndY nn s
  | .stxZp nn => Sys2Proof.Machine.execStxZp nn s
  | .stxZpY nn => Sys2Proof.Machine.execStxZpY nn s
  | .stxAbs w => Sys2Proof.Machine.execStxAbs w s
  | .styZp nn => Sys2Proof.Machine.execStyZp nn s
  | .styZpX nn => Sys2Proof.Machine.execStyZpX nn s
  | .styAbs w => Sys2Proof.Machine.execStyAbs w s
  | .adcImm nn => Sys2Proof.Machine.execAdcImm nn s
  | .adcZp nn => Sys2Proof.Machine.execAdcZp nn s
  | .adcZpX nn => Sys2Proof.Machine.execAdcZpX nn s
  | .adcAbs w => Sys2Proof.Machine.execAdcAbs w s
  | .adcAbsX w => Sys2Proof.Machine.execAdcAbsX w s
  | .adcAbsY w => Sys2Proof.Machine.execAdcAbsY w s
  | .adcIndX nn => Sys2Proof.Machine.execAdcIndX nn s
  | .adcIndY nn => Sys2Proof.Machine.execAdcIndY nn s
  | .sbcImm nn => Sys2Proof.Machine.execSbcImm nn s
  | .sbcZp nn => Sys2Proof.Machine.execSbcZp nn s
  | .sbcZpX nn => Sys2Proof.Machine.execSbcZpX nn s
  | .sbcAbs w => Sys2Proof.Machine.execSbcAbs w s
  | .sbcAbsX w => Sys2Proof.Machine.execSbcAbsX w s
  | .sbcAbsY w => Sys2Proof.Machine.execSbcAbsY w s
  | .sbcIndX nn => Sys2Proof.Machine.execSbcIndX nn s
  | .sbcIndY nn => Sys2Proof.Machine.execSbcIndY nn s
  | .cmpImm nn => Sys2Proof.Machine.execCmpImm nn s
  | .cmpZp nn => Sys2Proof.Machine.execCmpZp nn s
  | .cmpZpX nn => Sys2Proof.Machine.execCmpZpX nn s
  | .cmpAbs w => Sys2Proof.Machine.execCmpAbs w s
  | .cmpAbsX w => Sys2Proof.Machine.execCmpAbsX w s
  | .cmpAbsY w => Sys2Proof.Machine.execCmpAbsY w s
  | .cmpIndX nn => Sys2Proof.Machine.execCmpIndX nn s
  | .cmpIndY nn => Sys2Proof.Machine.execCmpIndY nn s
  | .cpxImm nn => Sys2Proof.Machine.execCpxImm nn s
  | .cpxZp nn => Sys2Proof.Machine.execCpxZp nn s
  | .cpxAbs w => Sys2Proof.Machine.execCpxAbs w s
  | .cpyImm nn => Sys2Proof.Machine.execCpyImm nn s
  | .cpyZp nn => Sys2Proof.Machine.execCpyZp nn s
  | .cpyAbs w => Sys2Proof.Machine.execCpyAbs w s
  | .incZp nn => Sys2Proof.Machine.execIncZp nn s
  | .incZpX nn => Sys2Proof.Machine.execIncZpX nn s
  | .incAbs w => Sys2Proof.Machine.execIncAbs w s
  | .incAbsX w => Sys2Proof.Machine.execIncAbsX w s
  | .inx => Sys2Proof.Machine.execInx s
  | .iny => Sys2Proof.Machine.execIny s
  | .decZp nn => Sys2Proof.Machine.execDecZp nn s
  | .decZpX nn => Sys2Proof.Machine.execDecZpX nn s
  | .decAbs w => Sys2Proof.Machine.execDecAbs w s
  | .decAbsX w => Sys2Proof.Machine.execDecAbsX w s
  | .dex => Sys2Proof.Machine.execDex s
  | .dey => Sys2Proof.Machine.execDey s
  | .andImm nn => Sys2Proof.Machine.execAndImm nn s
  | .andZp nn => Sys2Proof.Machine.execAndZp nn s
  | .andZpX nn => Sys2Proof.Machine.execAndZpX nn s
  | .andAbs w => Sys2Proof.Machine.execAndAbs w s
  | .andAbsX w => Sys2Proof.Machine.execAndAbsX w s
  | .andAbsY w => Sys2Proof.Machine.execAndAbsY w s
  | .andIndX nn => Sys2Proof.Machine.execAndIndX nn s
  | .andIndY nn => Sys2Proof.Machine.execAndIndY nn s
  | .oraImm nn => Sys2Proof.Machine.execOraImm nn s
  | .oraZp nn => Sys2Proof.Machine.execOraZp nn s
  | .oraZpX nn => Sys2Proof.Machine.execOraZpX nn s
  | .oraAbs w => Sys2Proof.Machine.execOraAbs w s
  | .oraAbsX w => Sys2Proof.Machine.execOraAbsX w s
  | .oraAbsY w => Sys2Proof.Machine.execOraAbsY w s
  | .oraIndX nn => Sys2Proof.Machine.execOraIndX nn s
  | .oraIndY nn => Sys2Proof.Machine.execOraIndY nn s
  | .eorImm nn => Sys2Proof.Machine.execEorImm nn s
  | .eorZp nn => Sys2Proof.Machine.execEorZp nn s
  | .eorZpX nn => Sys2Proof.Machine.execEorZpX nn s
  | .eorAbs w => Sys2Proof.Machine.execEorAbs w s
  | .eorAbsX w => Sys2Proof.Machine.execEorAbsX w s
  | .eorAbsY w => Sys2Proof.Machine.execEorAbsY w s
  | .eorIndX nn => Sys2Proof.Machine.execEorIndX nn s
  | .eorIndY nn => Sys2Proof.Machine.execEorIndY nn s
  | .bitZp nn => Sys2Proof.Machine.execBitZp nn s
  | .bitAbs w => Sys2Proof.Machine.execBitAbs w s
  | .aslAcc => Sys2Proof.Machine.execAslAcc s
  | .aslZp nn => Sys2Proof.Machine.execAslZp nn s
  | .aslZpX nn => Sys2Proof.Machine.execAslZpX nn s
  | .aslAbs w => Sys2Proof.Machine.execAslAbs w s
  | .aslAbsX w => Sys2Proof.Machine.execAslAbsX w s
  | .lsrAcc => Sys2Proof.Machine.execLsrAcc s
  | .lsrZp nn => Sys2Proof.Machine.execLsrZp nn s
  | .lsrZpX nn => Sys2Proof.Machine.execLsrZpX nn s
  | .lsrAbs w => Sys2Proof.Machine.execLsrAbs w s
  | .lsrAbsX w => Sys2Proof.Machine.execLsrAbsX w s
  | .rolAcc => Sys2Proof.Machine.execRolAcc s
  | .rolZp nn => Sys2Proof.Machine.execRolZp nn s
  | .rolZpX nn => Sys2Proof.Machine.execRolZpX nn s
  | .rolAbs w => Sys2Proof.Machine.execRolAbs w s
  | .rolAbsX w => Sys2Proof.Machine.execRolAbsX w s
  | .rorAcc => Sys2Proof.Machine.execRorAcc s
  | .rorZp nn => Sys2Proof.Machine.execRorZp nn s
  | .rorZpX nn => Sys2Proof.Machine.execRorZpX nn s
  | .rorAbs w => Sys2Proof.Machine.execRorAbs w s
  | .rorAbsX w => Sys2Proof.Machine.execRorAbsX w s
  | .bpl d => Sys2Proof.Machine.execBpl d s
  | .bmi d => Sys2Proof.Machine.execBmi d s
  | .bvc d => Sys2Proof.Machine.execBvc d s
  | .bvs d => Sys2Proof.Machine.execBvs d s
  | .bcc d => Sys2Proof.Machine.execBcc d s
  | .bcs d => Sys2Proof.Machine.execBcs d s
  | .bne d => Sys2Proof.Machine.execBne d s
  | .beq d => Sys2Proof.Machine.execBeq d s
  | .jmpAbs w => Sys2Proof.Machine.execJmpAbs w s
  | .jmpInd w => Sys2Proof.Machine.execJmpInd w s
  | .jsr w => Sys2Proof.Machine.execJsr w s
  | .rts => Sys2Proof.Machine.execRts s
  | .rti => Sys2Proof.Machine.execRti s
  | .brk => Sys2Proof.Machine.execBrk s
  | .pha => Sys2Proof.Machine.execPha s
  | .php => Sys2Proof.Machine.execPhp s
  | .pla => Sys2Proof.Machine.execPla s
  | .plp => Sys2Proof.Machine.execPlp s
  | .clc => Sys2Proof.Machine.execClc s
  | .sec => Sys2Proof.Machine.execSec s
  | .cli => Sys2Proof.Machine.execCli s
  | .sei => Sys2Proof.Machine.execSei s
  | .clv => Sys2Proof.Machine.execClv s
  | .cld => Sys2Proof.Machine.execCld s
  | .sed => Sys2Proof.Machine.execSed s
  | .tax => Sys2Proof.Machine.execTax s
  | .tay => Sys2Proof.Machine.execTay s
  | .txa => Sys2Proof.Machine.execTxa s
  | .tya => Sys2Proof.Machine.execTya s
  | .tsx => Sys2Proof.Machine.execTsx s
  | .txs => Sys2Proof.Machine.execTxs s
  | .nop => Sys2Proof.Machine.execNop s
  | .illegal byte => Sys2Proof.Machine.execIllegal byte s

end Sys2Proof.Machine
end

