-- ==== Sys2Proof/Machine/Step.lean ====
section
/-! DEFINITION. The step of the machine, and the placing of an instruction where the next step fetches
it. spec/40_execution_common.md R200. -/

namespace Sys2Proof.Machine

/-- `Step()`: the instruction at `pc` is fetched and executed (R200). An error ends the step and leaves
the state as it was (R313). -/
def step (s : State) : Host.Outcome State Fault Refusal :=
  match fetchAt s.pc s with
  | .error f => .fault f
  | .ok i => exec i s

/-- The state with the instruction of bits `w` placed at `pc`; where no three bytes can be fetched
there, `pc` is moved to the start of internal RAM first (log 5). -/
def State.withFetchWord (s : State) (nbits w : Nat) : State :=
  if fetchable s.pc s then
    placeBytes s.pc (tableByte nbits w 0) (tableByte nbits w 1) (tableByte nbits w 2) s
  else
    placeBytes 0 (tableByte nbits w 0) (tableByte nbits w 1) (tableByte nbits w 2) (s.setPc 0)

end Sys2Proof.Machine
end

