-- ==== Sys2Proof/Machine/Params.lean ====
section
/-! DEFINITION. Decoding, execution and the step with the OPEN parameters of spec/00_scope.md R7 as an
argument. `exec`, `decodeAt`, `decodeN` and `step` are these at `Config.openParams`. -/

namespace Sys2Proof.Machine

/-- The result of an operation that can fail, as an outcome. -/
def outcomeOf {α : Type} : Except Fault α → Host.Outcome α Fault Refusal
  | .ok a => .next a
  | .error f => .fault f

/-- `Execute` under `p`: the two instructions that an OPEN parameter bears on take it as an argument
(spec/30_encoding.md R177, spec/46_jump.md R267); the others do not depend on it. -/
def execUnder (p : OpenParams) (i : Instr) (s : State) : Host.Outcome State Fault Refusal :=
  match i with
  | .jmpInd w => runJumpInd p.pageWrap w s
  | .brk => runBreak p.brk s
  | i => exec i s

/-- The record of an instruction at `a` under `p`: JMP `ind` alone depends on it, BRK decodes under both
values of its parameter (spec/30_encoding.md R177, spec/46_jump.md R267). -/
def describeUnder (p : OpenParams) (a : Word) (i : Instr) (s : State) :
    Host.Outcome DecodedOp Fault Refusal :=
  match i with
  | .jmpInd w =>
    if pointerRefused p.pageWrap w then .refused (.jmpIndPageWrap w)
    else outcomeOf (withRef (opShape .JMP .ind) (resolveInd p.pageWrap w s))
  | i => outcomeOf (describeInstr a i s)

/-- `Decode(A)` under `p` (spec/30_encoding.md R121). -/
def decodeUnder (p : OpenParams) (a : Word) (s : State) : Host.Outcome DecodedOp Fault Refusal :=
  match fetchAt a s with
  | .error f => .fault f
  | .ok i => describeUnder p a i s

/-- `DecodeN(n, A)` under `p` (spec/30_encoding.md R190). -/
def decodeNUnder (p : OpenParams) : Nat → Word → State → Host.Outcome (List DecodedOp) Fault Refusal
  | 0, _, _ => .next []
  | n + 1, a, s =>
    match decodeUnder p a s with
    | .fault f => .fault f
    | .refused r => .refused r
    | .next op =>
      match decodeNUnder p n (a + BitVec.ofNat 16 op.length) s with
      | .fault f => .fault f
      | .refused r => .refused r
      | .next ops => .next (op :: ops)

/-- `Step()` under `p` (spec/40_execution_common.md R200). -/
def stepUnder (p : OpenParams) (s : State) : Host.Outcome State Fault Refusal :=
  match fetchAt s.pc s with
  | .error f => .fault f
  | .ok i => execUnder p i s

end Sys2Proof.Machine
end

