-- ==== Sys2Proof/Machine/Loader.lean ====
section
/-! DEFINITION. The cartridge image parser. spec/20_memory.md R60 to R79. -/

namespace Sys2Proof.Machine

/-- Byte `i` of an image; read only below the image's length. -/
def imageByte (image : List Byte) (i : Nat) : Byte := image.getD i 0

/-- `prg_len` as the header declares it (R64). -/
def declaredPrgLen (image : List Byte) : Nat := (imageByte image 4).toNat * Config.prgUnit

/-- `chr_len` as the header declares it, from the CHR field and nothing else (R65). -/
def declaredChrLen (image : List Byte) : Nat := (imageByte image 5).toNat * Config.chrUnit

/-- The length of the trainer, which is skipped and kept nowhere (R71). -/
def declaredTrainerLen (image : List Byte) : Nat :=
  if (imageByte image 6).getLsbD 2 then Config.trainerLen else 0

/-- The mapper nibble of the flag byte (R66, R68). -/
def declaredMapper (image : List Byte) : BitVec 4 := (imageByte image 6).extractLsb' 4 4

/-- The offset of the PRG-ROM data in the image (R70). -/
def prgStart (image : List Byte) : Nat := Config.headerLen + declaredTrainerLen image

/-- The offset of the CHR data in the image (R70). -/
def chrStart (image : List Byte) : Nat := prgStart image + declaredPrgLen image

/-- The least length of an image with this header (R74). -/
def declaredLen (image : List Byte) : Nat := chrStart image + declaredChrLen image

/-- The cartridge of an image that passed the checks (R66, R72, R73, R78). Header bytes 7 to 15 and
bytes past the declared parts are not read (R67, R75). -/
def cartridgeOf (withPrgRam : Bool) (image : List Byte) : Cartridge :=
  { prgUnits := imageByte image 4
    prgRom := Memory.ofBytes 0 ((image.drop (prgStart image)).take (declaredPrgLen image))
    prgRam := if withPrgRam then some [] else none
    chrUnits := imageByte image 5
    chr := Memory.ofBytes 0 ((image.drop (chrStart image)).take (declaredChrLen image))
    mirroring := (imageByte image 6).getLsbD 0
    battery := (imageByte image 6).getLsbD 1
    trainer := (imageByte image 6).getLsbD 2
    mirroringOverride := (imageByte image 6).getLsbD 3
    mapper := declaredMapper image }

/-- `LoadCartridge(bytes)`: the four checks in the order of R69, then the cartridge (R79). The first
argument is the parameter PRG_RAM_SIZE: absent, or 8 KiB (R78; log 12). -/
def loadCartridge (withPrgRam : Bool) (image : List Byte) : Except Fault Cartridge :=
  if image.length < Config.headerLen then .error .malformedHeader
  else if image.take 4 ≠ Config.inesMagic then .error .malformedHeader
  else if declaredMapper image ≠ 0 then .error (.unsupportedMapper (declaredMapper image))
  else if image.length < declaredLen image then .error .truncatedImage
  else .ok (cartridgeOf withPrgRam image)

end Sys2Proof.Machine
end

