-- ==== Sys2Proof/Machine/Reset.lean ====
section
/-! DEFINITION. The `Reset` operation and the boot order. spec/70_reset_and_hazards.md R340, R341, R345. -/

namespace Sys2Proof.Machine

/-- `Reset()`: the vector is read first, then pc, sp and sr are written and nothing else (R340). It
fails exactly when the vector cannot be read, and then changes nothing (R341). -/
def resetMachine (s : State) : Except Fault State :=
  match memRead2 Config.resetVector s with
  | .error f => .error f
  | .ok v => .ok (((s.setPc v).setSp Config.resetSp).setSr Config.resetSr)

/-- A machine made from an image: load, create, reset (R345). -/
def boot (withPrgRam : Bool) (image : List Byte) : Except Fault State :=
  match loadCartridge withPrgRam image with
  | .error f => .error f
  | .ok c => resetMachine (State.powerUp c)

end Sys2Proof.Machine
end

