-- ==== Sys2Proof/Safety.lean ====
section
/-! DEFINITION. What a good state is, what a safe run is, and the words the statements about this machine
use: bytes held at an address, the cell behind an address, what a store may change, which flags and
registers a mnemonic writes, the count of a step. -/

namespace Sys2Proof.Machine

/-- The cells of a cartridge are in canonical form, each block within its length, and its mapper is 0
(spec/10_state.md R36, spec/20_memory.md R50, R68). -/
def Cartridge.wf (c : Cartridge) : Bool :=
  Memory.wf c.prgLen c.prgRom && c.prgRam.all (Memory.wf Config.prgRamSize) &&
    Memory.wf c.chrLen c.chr && decide (c.mapper = 0)

/-- A good state: RAM and cartridge in canonical form (spec/10_state.md R34, R36). -/
def State.wf (s : State) : Bool := Memory.wf Config.ramSize s.ram && s.cart.wf

/-- The block's own rules give the state a successor (spec/60_exceptions.md R307). -/
def State.steps (s : State) : Prop := ∃ t, step s = .next t

/-- A safe run of `n` steps: no error and no refusal ends it (spec/60_exceptions.md R307). -/
def State.runsSafely (n : Nat) (s : State) : Prop := ∃ t, Sys2Proof.core.run n s = .next t

/-- The bytes of one instruction stand at bus address `a`, as the fetch reads them: the opcode as a byte,
one operand byte as a byte, two as one 16-bit read (spec/30_encoding.md R161, R183). -/
def State.holdsAt (s : State) (a : Word) : List Byte → Prop
  | [op] => memRead1 a s = .ok op
  | [op, nn] => memRead1 a s = .ok op ∧ memRead1 (a + 1) s = .ok nn
  | [op, ll, hh] => memRead1 a s = .ok op ∧ memRead2 (a + 1) s = .ok (wordOf hh ll)
  | _ => False

/-- Two bus addresses stand for one writable byte: they are equal, or both lie in internal RAM and agree
modulo 0x800 (spec/20_memory.md R92). -/
abbrev sameCell (a b : Word) : Prop :=
  a = b ∨ (a.toNat < 0x2000 ∧ b.toNat < 0x2000 ∧ a.toNat % 0x800 = b.toNat % 0x800)

/-- A store to this address stores: internal RAM, or PRG-RAM when present (spec/20_memory.md R97). -/
abbrev storesAt (a : Word) (s : State) : Prop :=
  a.toNat < 0x2000 ∨ (0x6000 ≤ a.toNat ∧ a.toNat < 0x8000 ∧ s.cart.prgRam.isSome = true)

/-- From `s` to `t` memory changed as the store of the byte `v` at bus address `a` says: every byte that is
not behind `a` reads as before; where `a` is RAM or PRG-RAM of a state in canonical form, every address of
its cell reads `v`; where it is not, every byte reads as before (spec/20_memory.md R97). -/
def storedByte (a : Word) (v : Byte) (s t : State) : Prop :=
  (∀ b, ¬ sameCell a b → memRead1 b t = memRead1 b s) ∧
    (s.wf = true → storesAt a s → ∀ b, sameCell a b → memRead1 b t = .ok v) ∧
    (¬ storesAt a s → ∀ b, memRead1 b t = memRead1 b s)

/-- Every byte of the bus reads in `t` as in `s`. -/
def sameBytes (s t : State) : Prop := ∀ b, memRead1 b t = memRead1 b s

/-- The cartridge of `t` is that of `s` but for the cells of PRG-RAM (spec/10_state.md R36). -/
def romKept (s t : State) : Prop := t.cart = { s.cart with prgRam := t.cart.prgRam }

/-- The data registers and the stack pointer of `t` are those of `s`. -/
def registersKept (s t : State) : Prop := t.ac = s.ac ∧ t.x = s.x ∧ t.y = s.y ∧ t.sp = s.sp

/-- The instruction has this mnemonic, and its operand resolves at `s` to the record `op`, for an
instruction standing at `pc` (spec/30_encoding.md R121, R170 to R181). -/
def resolvesTo (i : Instr) (mn : Mnemonic) (s : State) (op : DecodedOp) : Prop :=
  ∃ o, i.form = some (mn, o) ∧ describe s.pc mn o s = .ok op

/-- Under `p` JMP `ind` at pointer `ptr` goes to `ea`, whose byte is `v`: so it executes, and so a decode of it
at `a` says (spec/30_encoding.md R177, spec/46_jump.md R263). -/
def State.pointerJumps (s : State) (p : OpenParams) (a ptr ea : Word) (v : Byte) : Prop :=
  execUnder p (.jmpInd ptr) s = .next { s with pc := ea, cycles := 5 } ∧
  (s.holdsAt a (encode (.jmpInd ptr)) → ∃ op, decodeUnder p a s = .next op ∧ op.mnemonic = .JMP ∧
    op.mode = .ind ∧ op.length = 3 ∧ op.cycles = 5 ∧ op.addr = some ea ∧ op.val = some v ∧ op.base = none)

/-- Under `p` JMP `ind` at pointer `ptr` fails with `f`: so it executes, and so a decode of it at `a` says
(spec/30_encoding.md R177, R183). -/
def State.pointerFails (s : State) (p : OpenParams) (a ptr : Word) (f : Fault) : Prop :=
  execUnder p (.jmpInd ptr) s = .fault f ∧
  (s.holdsAt a (encode (.jmpInd ptr)) → decodeUnder p a s = .fault f)

/-- The flag a branch tests and the value it is taken for, the table of spec/40_execution_common.md
R206. -/
def branchTest : Mnemonic → Option (Flag × Bool)
  | .BPL => some (.negative, false)
  | .BMI => some (.negative, true)
  | .BVC => some (.overflow, false)
  | .BVS => some (.overflow, true)
  | .BCC => some (.carry, false)
  | .BCS => some (.carry, true)
  | .BNE => some (.zero, false)
  | .BEQ => some (.zero, true)
  | _ => none

/-- Every flag but the listed ones is in `t` what it is in `s`. -/
def flagsKept (written : List Flag) (s t : State) : Prop :=
  ∀ f, f ∉ written → getFlag f t.sr = getFlag f s.sr

/-- Z and N of `t` follow the byte `v` (spec/40_execution_common.md R208). -/
def zeroNegativeOf (v : Byte) (t : State) : Prop :=
  getFlag .zero t.sr = decide (v = 0) ∧ getFlag .negative t.sr = v.getLsbD 7

/-- The count of a step that is no branch: the base count, and one more where the form is flagged and the
effective address lies in another page than the base (spec/40_execution_common.md R205). -/
def DecodedOp.count (op : DecodedOp) : Nat :=
  match op.addr, op.base with
  | some ea, some b => op.cycles + (if op.pagePenalty = true ∧ page ea ≠ page b then 1 else 0)
  | _, _ => op.cycles

/-- `t.pc` is past the instruction and `t` holds its count (spec/40_execution_common.md R201, R205). -/
def endsPast (op : DecodedOp) (s t : State) : Prop :=
  t.pc = s.pc + BitVec.ofNat 16 op.length ∧ t.cycles = op.count

/-- The flags a mnemonic writes, the table of spec/10_state.md R27. -/
def flagsWritten : Mnemonic → List Flag
  | .ADC | .SBC => [.negative, .overflow, .zero, .carry]
  | .CMP | .CPX | .CPY => [.negative, .zero, .carry]
  | .ASL | .LSR | .ROL | .ROR => [.negative, .zero, .carry]
  | .AND | .ORA | .EOR => [.negative, .zero]
  | .BIT => [.negative, .overflow, .zero]
  | .LDA | .LDX | .LDY => [.negative, .zero]
  | .INC | .DEC | .INX | .INY | .DEX | .DEY => [.negative, .zero]
  | .TAX | .TAY | .TXA | .TYA | .TSX => [.negative, .zero]
  | .PLA => [.negative, .zero]
  | .TXS => []
  | .CLC | .SEC => [.carry]
  | .CLI | .SEI => [.interruptDisable]
  | .CLD | .SED => [.decimal]
  | .CLV => [.overflow]
  | .PLP | .RTI => [.negative, .overflow, .decimal, .interruptDisable, .zero, .carry]
  | .BRK => [.interruptDisable]
  | .STA | .STX | .STY | .PHA | .PHP | .JMP | .JSR | .RTS | .NOP => []
  | .BPL | .BMI | .BVC | .BVS | .BCC | .BCS | .BNE | .BEQ => []

/-- The instruction writes the accumulator: by its mnemonic (R230 to R282), or by mode `acc` (R207). -/
def writesAc (mn : Mnemonic) (md : AddressingMode) : Bool :=
  md = .acc || mn ∈ [.LDA, .ADC, .SBC, .AND, .ORA, .EOR, .TXA, .TYA, .PLA]

/-- The mnemonics that write X. -/
def writesX (mn : Mnemonic) : Bool := mn ∈ [.LDX, .INX, .DEX, .TAX, .TSX]

/-- The mnemonics that write Y. -/
def writesY (mn : Mnemonic) : Bool := mn ∈ [.LDY, .INY, .DEY, .TAY]

/-- The mnemonics that write the stack pointer: TXS, the pushes and the pulls. -/
def writesSp (mn : Mnemonic) : Bool :=
  mn ∈ [.TXS, .PHA, .PHP, .PLA, .PLP, .JSR, .RTS, .RTI, .BRK]

/-- The forms that store at their effective address: the stores, and the read-modify-write mnemonics in
every mode but `acc` (R207, R233 to R235). -/
def storesAtOperand (mn : Mnemonic) (md : AddressingMode) : Bool :=
  md ≠ .acc && mn ∈ [.STA, .STX, .STY, .INC, .DEC, .ASL, .LSR, .ROL, .ROR]

/-- How many bytes a mnemonic pushes (R264, R267 to R269). -/
def bytesPushed : Mnemonic → Nat
  | .PHA => 1
  | .PHP => 1
  | .JSR => 2
  | .BRK => 3
  | _ => 0

/-- One row of the decode matrix of spec/30_encoding.md R140. -/
structure MatrixRow where
  opcode : Byte
  mnemonic : Mnemonic
  mode : AddressingMode
  length : Nat
  cycles : Nat
  pagePenalty : Bool

/-- The opcodes 0x00 to 0x0F (R140). -/
def matrixRows0 : List MatrixRow := [
  ⟨0x00, .BRK, .impl, 1, 7, false⟩,
  ⟨0x01, .ORA, .indx, 2, 6, false⟩,
  ⟨0x05, .ORA, .zp, 2, 3, false⟩,
  ⟨0x06, .ASL, .zp, 2, 5, false⟩,
  ⟨0x08, .PHP, .impl, 1, 3, false⟩,
  ⟨0x09, .ORA, .imm, 2, 2, false⟩,
  ⟨0x0A, .ASL, .acc, 1, 2, false⟩,
  ⟨0x0D, .ORA, .abs, 3, 4, false⟩,
  ⟨0x0E, .ASL, .abs, 3, 6, false⟩]

/-- The opcodes 0x10 to 0x1F (R140). -/
def matrixRows1 : List MatrixRow := [
  ⟨0x10, .BPL, .rel, 2, 2, false⟩,
  ⟨0x11, .ORA, .indy, 2, 5, true⟩,
  ⟨0x15, .ORA, .zpx, 2, 4, false⟩,
  ⟨0x16, .ASL, .zpx, 2, 6, false⟩,
  ⟨0x18, .CLC, .impl, 1, 2, false⟩,
  ⟨0x19, .ORA, .absy, 3, 4, true⟩,
  ⟨0x1D, .ORA, .absx, 3, 4, true⟩,
  ⟨0x1E, .ASL, .absx, 3, 7, false⟩]

/-- The opcodes 0x20 to 0x2F (R140). -/
def matrixRows2 : List MatrixRow := [
  ⟨0x20, .JSR, .abs, 3, 6, false⟩,
  ⟨0x21, .AND, .indx, 2, 6, false⟩,
  ⟨0x24, .BIT, .zp, 2, 3, false⟩,
  ⟨0x25, .AND, .zp, 2, 3, false⟩,
  ⟨0x26, .ROL, .zp, 2, 5, false⟩,
  ⟨0x28, .PLP, .impl, 1, 4, false⟩,
  ⟨0x29, .AND, .imm, 2, 2, false⟩,
  ⟨0x2A, .ROL, .acc, 1, 2, false⟩,
  ⟨0x2C, .BIT, .abs, 3, 4, false⟩,
  ⟨0x2D, .AND, .abs, 3, 4, false⟩,
  ⟨0x2E, .ROL, .abs, 3, 6, false⟩]

/-- The opcodes 0x30 to 0x3F (R140). -/
def matrixRows3 : List MatrixRow := [
  ⟨0x30, .BMI, .rel, 2, 2, false⟩,
  ⟨0x31, .AND, .indy, 2, 5, true⟩,
  ⟨0x35, .AND, .zpx, 2, 4, false⟩,
  ⟨0x36, .ROL, .zpx, 2, 6, false⟩,
  ⟨0x38, .SEC, .impl, 1, 2, false⟩,
  ⟨0x39, .AND, .absy, 3, 4, true⟩,
  ⟨0x3D, .AND, .absx, 3, 4, true⟩,
  ⟨0x3E, .ROL, .absx, 3, 7, false⟩]

/-- The opcodes 0x40 to 0x4F (R140). -/
def matrixRows4 : List MatrixRow := [
  ⟨0x40, .RTI, .impl, 1, 6, false⟩,
  ⟨0x41, .EOR, .indx, 2, 6, false⟩,
  ⟨0x45, .EOR, .zp, 2, 3, false⟩,
  ⟨0x46, .LSR, .zp, 2, 5, false⟩,
  ⟨0x48, .PHA, .impl, 1, 3, false⟩,
  ⟨0x49, .EOR, .imm, 2, 2, false⟩,
  ⟨0x4A, .LSR, .acc, 1, 2, false⟩,
  ⟨0x4C, .JMP, .abs, 3, 3, false⟩,
  ⟨0x4D, .EOR, .abs, 3, 4, false⟩,
  ⟨0x4E, .LSR, .abs, 3, 6, false⟩]

/-- The opcodes 0x50 to 0x5F (R140). -/
def matrixRows5 : List MatrixRow := [
  ⟨0x50, .BVC, .rel, 2, 2, false⟩,
  ⟨0x51, .EOR, .indy, 2, 5, true⟩,
  ⟨0x55, .EOR, .zpx, 2, 4, false⟩,
  ⟨0x56, .LSR, .zpx, 2, 6, false⟩,
  ⟨0x58, .CLI, .impl, 1, 2, false⟩,
  ⟨0x59, .EOR, .absy, 3, 4, true⟩,
  ⟨0x5D, .EOR, .absx, 3, 4, true⟩,
  ⟨0x5E, .LSR, .absx, 3, 7, false⟩]

/-- The opcodes 0x60 to 0x6F (R140). -/
def matrixRows6 : List MatrixRow := [
  ⟨0x60, .RTS, .impl, 1, 6, false⟩,
  ⟨0x61, .ADC, .indx, 2, 6, false⟩,
  ⟨0x65, .ADC, .zp, 2, 3, false⟩,
  ⟨0x66, .ROR, .zp, 2, 5, false⟩,
  ⟨0x68, .PLA, .impl, 1, 4, false⟩,
  ⟨0x69, .ADC, .imm, 2, 2, false⟩,
  ⟨0x6A, .ROR, .acc, 1, 2, false⟩,
  ⟨0x6C, .JMP, .ind, 3, 5, false⟩,
  ⟨0x6D, .ADC, .abs, 3, 4, false⟩,
  ⟨0x6E, .ROR, .abs, 3, 6, false⟩]

/-- The opcodes 0x70 to 0x7F (R140). -/
def matrixRows7 : List MatrixRow := [
  ⟨0x70, .BVS, .rel, 2, 2, false⟩,
  ⟨0x71, .ADC, .indy, 2, 5, true⟩,
  ⟨0x75, .ADC, .zpx, 2, 4, false⟩,
  ⟨0x76, .ROR, .zpx, 2, 6, false⟩,
  ⟨0x78, .SEI, .impl, 1, 2, false⟩,
  ⟨0x79, .ADC, .absy, 3, 4, true⟩,
  ⟨0x7D, .ADC, .absx, 3, 4, true⟩,
  ⟨0x7E, .ROR, .absx, 3, 7, false⟩]

/-- The opcodes 0x80 to 0x8F (R140). -/
def matrixRows8 : List MatrixRow := [
  ⟨0x81, .STA, .indx, 2, 6, false⟩,
  ⟨0x84, .STY, .zp, 2, 3, false⟩,
  ⟨0x85, .STA, .zp, 2, 3, false⟩,
  ⟨0x86, .STX, .zp, 2, 3, false⟩,
  ⟨0x88, .DEY, .impl, 1, 2, false⟩,
  ⟨0x8A, .TXA, .impl, 1, 2, false⟩,
  ⟨0x8C, .STY, .abs, 3, 4, false⟩,
  ⟨0x8D, .STA, .abs, 3, 4, false⟩,
  ⟨0x8E, .STX, .abs, 3, 4, false⟩]

/-- The opcodes 0x90 to 0x9F (R140). -/
def matrixRows9 : List MatrixRow := [
  ⟨0x90, .BCC, .rel, 2, 2, false⟩,
  ⟨0x91, .STA, .indy, 2, 6, false⟩,
  ⟨0x94, .STY, .zpx, 2, 4, false⟩,
  ⟨0x95, .STA, .zpx, 2, 4, false⟩,
  ⟨0x96, .STX, .zpy, 2, 4, false⟩,
  ⟨0x98, .TYA, .impl, 1, 2, false⟩,
  ⟨0x99, .STA, .absy, 3, 5, false⟩,
  ⟨0x9A, .TXS, .impl, 1, 2, false⟩,
  ⟨0x9D, .STA, .absx, 3, 5, false⟩]

/-- The opcodes 0xA0 to 0xAF (R140). -/
def matrixRowsA : List MatrixRow := [
  ⟨0xA0, .LDY, .imm, 2, 2, false⟩,
  ⟨0xA1, .LDA, .indx, 2, 6, false⟩,
  ⟨0xA2, .LDX, .imm, 2, 2, false⟩,
  ⟨0xA4, .LDY, .zp, 2, 3, false⟩,
  ⟨0xA5, .LDA, .zp, 2, 3, false⟩,
  ⟨0xA6, .LDX, .zp, 2, 3, false⟩,
  ⟨0xA8, .TAY, .impl, 1, 2, false⟩,
  ⟨0xA9, .LDA, .imm, 2, 2, false⟩,
  ⟨0xAA, .TAX, .impl, 1, 2, false⟩,
  ⟨0xAC, .LDY, .abs, 3, 4, false⟩,
  ⟨0xAD, .LDA, .abs, 3, 4, false⟩,
  ⟨0xAE, .LDX, .abs, 3, 4, false⟩]

/-- The opcodes 0xB0 to 0xBF (R140). -/
def matrixRowsB : List MatrixRow := [
  ⟨0xB0, .BCS, .rel, 2, 2, false⟩,
  ⟨0xB1, .LDA, .indy, 2, 5, true⟩,
  ⟨0xB4, .LDY, .zpx, 2, 4, false⟩,
  ⟨0xB5, .LDA, .zpx, 2, 4, false⟩,
  ⟨0xB6, .LDX, .zpy, 2, 4, false⟩,
  ⟨0xB8, .CLV, .impl, 1, 2, false⟩,
  ⟨0xB9, .LDA, .absy, 3, 4, true⟩,
  ⟨0xBA, .TSX, .impl, 1, 2, false⟩,
  ⟨0xBC, .LDY, .absx, 3, 4, true⟩,
  ⟨0xBD, .LDA, .absx, 3, 4, true⟩,
  ⟨0xBE, .LDX, .absy, 3, 4, true⟩]

/-- The opcodes 0xC0 to 0xCF (R140). -/
def matrixRowsC : List MatrixRow := [
  ⟨0xC0, .CPY, .imm, 2, 2, false⟩,
  ⟨0xC1, .CMP, .indx, 2, 6, false⟩,
  ⟨0xC4, .CPY, .zp, 2, 3, false⟩,
  ⟨0xC5, .CMP, .zp, 2, 3, false⟩,
  ⟨0xC6, .DEC, .zp, 2, 5, false⟩,
  ⟨0xC8, .INY, .impl, 1, 2, false⟩,
  ⟨0xC9, .CMP, .imm, 2, 2, false⟩,
  ⟨0xCA, .DEX, .impl, 1, 2, false⟩,
  ⟨0xCC, .CPY, .abs, 3, 4, false⟩,
  ⟨0xCD, .CMP, .abs, 3, 4, false⟩,
  ⟨0xCE, .DEC, .abs, 3, 6, false⟩]

/-- The opcodes 0xD0 to 0xDF (R140). -/
def matrixRowsD : List MatrixRow := [
  ⟨0xD0, .BNE, .rel, 2, 2, false⟩,
  ⟨0xD1, .CMP, .indy, 2, 5, true⟩,
  ⟨0xD5, .CMP, .zpx, 2, 4, false⟩,
  ⟨0xD6, .DEC, .zpx, 2, 6, false⟩,
  ⟨0xD8, .CLD, .impl, 1, 2, false⟩,
  ⟨0xD9, .CMP, .absy, 3, 4, true⟩,
  ⟨0xDD, .CMP, .absx, 3, 4, true⟩,
  ⟨0xDE, .DEC, .absx, 3, 7, false⟩]

/-- The opcodes 0xE0 to 0xEF (R140). -/
def matrixRowsE : List MatrixRow := [
  ⟨0xE0, .CPX, .imm, 2, 2, false⟩,
  ⟨0xE1, .SBC, .indx, 2, 6, false⟩,
  ⟨0xE4, .CPX, .zp, 2, 3, false⟩,
  ⟨0xE5, .SBC, .zp, 2, 3, false⟩,
  ⟨0xE6, .INC, .zp, 2, 5, false⟩,
  ⟨0xE8, .INX, .impl, 1, 2, false⟩,
  ⟨0xE9, .SBC, .imm, 2, 2, false⟩,
  ⟨0xEA, .NOP, .impl, 1, 2, false⟩,
  ⟨0xEC, .CPX, .abs, 3, 4, false⟩,
  ⟨0xED, .SBC, .abs, 3, 4, false⟩,
  ⟨0xEE, .INC, .abs, 3, 6, false⟩]

/-- The opcodes 0xF0 to 0xFF (R140). -/
def matrixRowsF : List MatrixRow := [
  ⟨0xF0, .BEQ, .rel, 2, 2, false⟩,
  ⟨0xF1, .SBC, .indy, 2, 5, true⟩,
  ⟨0xF5, .SBC, .zpx, 2, 4, false⟩,
  ⟨0xF6, .INC, .zpx, 2, 6, false⟩,
  ⟨0xF8, .SED, .impl, 1, 2, false⟩,
  ⟨0xF9, .SBC, .absy, 3, 4, true⟩,
  ⟨0xFD, .SBC, .absx, 3, 4, true⟩,
  ⟨0xFE, .INC, .absx, 3, 7, false⟩]

/-- The decode matrix, one row for each legal opcode, in opcode order (R140). -/
def decodeMatrix : List MatrixRow :=
  matrixRows0 ++ matrixRows1 ++ matrixRows2 ++ matrixRows3 ++ matrixRows4 ++
    matrixRows5 ++ matrixRows6 ++ matrixRows7 ++ matrixRows8 ++ matrixRows9 ++
    matrixRowsA ++ matrixRowsB ++ matrixRowsC ++ matrixRowsD ++ matrixRowsE ++
    matrixRowsF

end Sys2Proof.Machine
end

