-- ==== Sys2Proof/Certificates/Slice0/Obligations.lean ====
section
/-! DEFINITION. The statements about this machine, for the provers. Each docstring names the rules of
spec/ it formalises. `resolvesTo i mn s op` says that instruction `i` has mnemonic `mn` and that its
operand, resolved at `s` from `pc`, is the record `op`: the statement then holds of every addressing mode
the mnemonic has. -/

section Statements

open Sys2Proof Sys2Proof.Machine

/-! ### Encoding and decoding -/

/-- One word of each family, written bit by bit from the encoding tables of R230 to R285, decodes to the
instruction it stands for. -/
def Obligations.FamilyWordsDecode : Prop :=
  decode [0b10110101, 0x10] = .ok (.ldaZpX 0x10, []) ∧
  decode [0b10001101, 0x34, 0x12] = .ok (.staAbs 0x1234, []) ∧
  decode [0b11110001, 0x80] = .ok (.sbcIndY 0x80, []) ∧
  decode [0b00101100, 0x02, 0x20] = .ok (.bitAbs 0x2002, []) ∧
  decode [0b01101010] = .ok (.rorAcc, []) ∧
  decode [0b11010000, 0x80] = .ok (.bne 0x80, []) ∧
  decode [0b01101100, 0xFF, 0x02] = .ok (.jmpInd 0x02FF, []) ∧
  decode [0b00101000] = .ok (.plp, []) ∧
  decode [0b01111000] = .ok (.sei, []) ∧
  decode [0b10011010] = .ok (.txs, []) ∧
  decode [0b10001001, 0x00] = .ok (.illegal 0x89, [0x00])

/-- Decoding what a well-formed instruction encodes to gives it back, whatever bytes follow (R121, R122,
R140). -/
def Obligations.DecodeInvertsEncode : Prop :=
  ∀ (i : Instr) (rest : List Byte), i.wf = true → decode (encode i ++ rest) = .ok (i, rest)

/-- Whatever decodes is the encoding of a well-formed instruction: no byte is dropped and no byte is read
as another instruction (R122, R142). -/
def Obligations.EncodeInvertsDecode : Prop :=
  ∀ (bs rest : List Byte) (i : Instr), decode bs = .ok (i, rest) → bs = encode i ++ rest ∧ i.wf = true

/-- The decode matrix, row by row: every one of the 151 opcodes decodes, with the operand bytes its length
asks for, to an instruction of the row's mnemonic and mode with the row's base count and page-penalty flag;
no
opcode stands twice (R140; the other 105 bytes are those of R141). -/
def Obligations.MatrixGivesEveryOpcode : Prop :=
  decodeMatrix.length = 151 ∧
  (∀ r ∈ decodeMatrix, ∀ ll hh : Byte, ∃ i o,
    decode [r.opcode, ll, hh] = .ok (i, [ll, hh].drop (r.length - 1)) ∧
    i.form = some (r.mnemonic, o) ∧ o.mode = r.mode ∧ r.mode.length = r.length ∧
    baseCycles r.mnemonic r.mode = r.cycles ∧ pagePenalty r.mnemonic r.mode = r.pagePenalty) ∧
  (decodeMatrix.map fun r => r.opcode.toNat).Pairwise (· < ·)

/-- The page-penalty flag is true for exactly the 23 opcodes R138 lists, the relative-fixup flag for
exactly the eight branches (R139). -/
def Obligations.PenaltyAndFixupForms : Prop :=
  ∀ (i : Instr) (mn : Mnemonic) (o : Operand), i.form = some (mn, o) →
    (pagePenalty mn o.mode = true ↔ i.opcode ∈
      [(0x1D : Byte), 0x19, 0x11, 0x3D, 0x39, 0x31, 0x5D, 0x59, 0x51, 0x7D, 0x79, 0x71,
        0xBD, 0xB9, 0xB1, 0xDD, 0xD9, 0xD1, 0xFD, 0xF9, 0xF1, 0xBE, 0xBC]) ∧
    (relFixup o.mode = true ↔ i.opcode ∈ [(0x10 : Byte), 0x30, 0x50, 0x70, 0x90, 0xB0, 0xD0, 0xF0])

/-- The 105 bytes of R141 and no others are illegal; executing one is the error IllegalOpcode with the
address and the byte, found with no operand byte read (R141, R303). -/
def Obligations.IllegalBytesFault : Prop :=
  (∀ (b : Byte) (rest : List Byte), b ∈ illegalBytes ↔ decode (b :: rest) = .ok (.illegal b, rest)) ∧
  (∀ (b : Byte) (s : State), exec (.illegal b) s = .fault (.illegalOpcode s.pc b)) ∧
  (∀ (b : Byte) (a : Word) (s : State), b ∈ illegalBytes → memRead1 a s = .ok b →
    decodeAt a s = .error (.illegalOpcode a b) ∧
    (∀ n, decodeN (n + 1) a s = .error (.illegalOpcode a b)) ∧
    (a = s.pc → step s = .fault (.illegalOpcode a b)))

/-! ### Operand resolution -/

/-- Modes `impl`, `acc`, `imm`, `zp`, `zpx`, `zpy` resolve without an error to what R170 to R174 say: the
accumulator, the operand byte, or the byte at a zero-page address that wraps within the page. -/
def Obligations.ShortOperandsResolve : Prop :=
  ∀ (a : Word) (mn : Mnemonic) (s : State) (nn : Byte),
    (∃ op, describe a mn .impl s = .ok op ∧ op.addr = none ∧ op.val = none ∧ op.base = none) ∧
    (∃ op, describe a mn .acc s = .ok op ∧ op.addr = none ∧ op.val = some s.ac ∧ op.base = none) ∧
    (∃ op, describe a mn (.imm nn) s = .ok op ∧ op.addr = none ∧ op.val = some nn ∧ op.base = none) ∧
    (∃ op ea v, describe a mn (.mem (.zp nn)) s = .ok op ∧ op.addr = some ea ∧ ea.toNat = nn.toNat ∧
      memRead1 ea s = .ok v ∧ op.val = some v ∧ op.base = none) ∧
    (∃ op ea v, describe a mn (.mem (.zpx nn)) s = .ok op ∧ op.addr = some ea ∧
      ea.toNat = (nn.toNat + s.x.toNat) % 256 ∧ memRead1 ea s = .ok v ∧ op.val = some v ∧ op.base = none) ∧
    (∃ op ea v, describe a mn (.mem (.zpy nn)) s = .ok op ∧ op.addr = some ea ∧
      ea.toNat = (nn.toNat + s.y.toNat) % 256 ∧ memRead1 ea s = .ok v ∧ op.val = some v ∧ op.base = none)

/-- Modes `abs`, `absx`, `absy`: the effective address is the operand word, or the word plus the index
modulo 65536; its byte is read, and a failure of that read is the error; `base` is the word for the indexed
modes (R175, R176). -/
def Obligations.AbsoluteOperandsResolve : Prop :=
  ∀ (a w : Word) (mn : Mnemonic) (s : State) (v : Byte) (f : Fault),
    (memRead1 w s = .ok v → ∃ op, describe a mn (.mem (.abs w)) s = .ok op ∧
      op.addr = some w ∧ op.val = some v ∧ op.base = none) ∧
    (memRead1 w s = .error f → describe a mn (.mem (.abs w)) s = .error f) ∧
    (∀ ea : Word, ea.toNat = (w.toNat + s.x.toNat) % 65536 →
      (memRead1 ea s = .ok v → ∃ op, describe a mn (.mem (.absx w)) s = .ok op ∧
        op.addr = some ea ∧ op.val = some v ∧ op.base = some w) ∧
      (memRead1 ea s = .error f → describe a mn (.mem (.absx w)) s = .error f)) ∧
    (∀ ea : Word, ea.toNat = (w.toNat + s.y.toNat) % 65536 →
      (memRead1 ea s = .ok v → ∃ op, describe a mn (.mem (.absy w)) s = .ok op ∧
        op.addr = some ea ∧ op.val = some v ∧ op.base = some w) ∧
      (memRead1 ea s = .error f → describe a mn (.mem (.absy w)) s = .error f))

/-- Modes `indx` and `indy`: the pointer's two bytes are read in the zero page, low byte first, with wrap
from 0xFF to 0x00; the index is added to the pointer's address (X) or to the pointer (Y) (R178 to R180). The
pointer reads never fail; a failure of the read at the effective address is the error. -/
def Obligations.IndirectOperandsResolve : Prop :=
  ∀ (a : Word) (mn : Mnemonic) (s : State) (nn lo hi v : Byte) (f : Fault),
    (∀ p : Word, p.toNat < 256 → ∃ b, memRead1 p s = .ok b) ∧
    (∀ p p' : Word, p.toNat = (nn.toNat + s.x.toNat) % 256 → p'.toNat = (nn.toNat + s.x.toNat + 1) % 256 →
      memRead1 p s = .ok lo → memRead1 p' s = .ok hi →
      (memRead1 (wordOf hi lo) s = .ok v → ∃ op, describe a mn (.mem (.indx nn)) s = .ok op ∧
        op.addr = some (wordOf hi lo) ∧ op.val = some v ∧ op.base = none) ∧
      (memRead1 (wordOf hi lo) s = .error f → describe a mn (.mem (.indx nn)) s = .error f)) ∧
    (∀ p p' ea : Word, p.toNat = nn.toNat → p'.toNat = (nn.toNat + 1) % 256 →
      ea.toNat = ((wordOf hi lo).toNat + s.y.toNat) % 65536 →
      memRead1 p s = .ok lo → memRead1 p' s = .ok hi →
      (memRead1 ea s = .ok v → ∃ op, describe a mn (.mem (.indy nn)) s = .ok op ∧
        op.addr = some ea ∧ op.val = some v ∧ op.base = some (wordOf hi lo)) ∧
      (memRead1 ea s = .error f → describe a mn (.mem (.indy nn)) s = .error f))

/-- Mode `ind`: where the pointer's low byte is not 0xFF the target's low byte is at the pointer and its
high byte at the next address. Where it is 0xFF, R177 leaves JMP_IND_PAGE_WRAP open (D8): the model runs
the jump with a free Boolean (DESIGN CHOICE, log 2), and the high byte is at the start of the same page or,
through one 16-bit read, at the next address. The first read that fails gives the error. With the parameter
as an argument, each of its three values executes and decodes as R177 says. Off a page's end the model makes
one 16-bit read whatever the parameter, so a pointer that cannot be read is an error of width 2 there also
under `true`, where R177 reads one byte first: the model's reading (DEDUCED, log 8). That a refused decode
ends the lookahead is the model's reading too (DEDUCED, log 2). -/
def Obligations.PointerOperandResolves : Prop :=
  ∀ (a ptr : Word) (mn : Mnemonic) (s : State),
    (∀ f, memRead1 ptr s = .error f →
      ∃ wd, describe a mn (.ind ptr) s = .error (.addressOutOfRange ptr.toNat wd)) ∧
    (ptr.toNat % 256 ≠ 255 →
      (∀ f, memRead2 ptr s = .error f → describe a mn (.ind ptr) s = .error f) ∧
      (∀ lo hi : Byte, memRead1 ptr s = .ok lo → memRead1 (ptr + 1) s = .ok hi →
        (∀ v, memRead1 (wordOf hi lo) s = .ok v → ∃ op, describe a mn (.ind ptr) s = .ok op ∧
          op.addr = some (wordOf hi lo) ∧ op.val = some v ∧ op.base = none) ∧
        (∀ f, memRead1 (wordOf hi lo) s = .error f → describe a mn (.ind ptr) s = .error f)) ∧
      (∀ p, execUnder p (.jmpInd ptr) s = exec (.jmpInd ptr) s ∧
        (s.holdsAt a (encode (.jmpInd ptr)) → decodeUnder p a s = outcomeOf (decodeAt a s)))) ∧
    (ptr.toNat % 256 = 255 →
      (∀ op, describe a mn (.ind ptr) s = .ok op →
        ∃ ea v, op.addr = some ea ∧ memRead1 ea s = .ok v ∧ op.val = some v ∧ op.base = none ∧
          memRead1 ptr s = .ok (lowByte ea) ∧
          (memRead2 ptr s = .ok ea ∨ memRead1 (ptr - 255) s = .ok (highByte ea))) ∧
      (∀ f, describe a mn (.ind ptr) s = .error f →
        memRead1 ptr s = .error f ∨ memRead2 ptr s = .error f ∨
        ∃ ea, memRead1 ea s = .error f ∧ memRead1 ptr s = .ok (lowByte ea) ∧
          (memRead2 ptr s = .ok ea ∨ memRead1 (ptr - 255) s = .ok (highByte ea))) ∧
      (∀ p : OpenParams, p.pageWrap = .wrap →
        (∀ f, memRead1 ptr s = .error f → s.pointerFails p a ptr f) ∧
        (∀ lo, memRead1 ptr s = .ok lo → ∃ hi, memRead1 (ptr - 255) s = .ok hi) ∧
        (∀ ea : Word, memRead1 ptr s = .ok (lowByte ea) → memRead1 (ptr - 255) s = .ok (highByte ea) →
          (∀ v, memRead1 ea s = .ok v → s.pointerJumps p a ptr ea v) ∧
          (∀ f, memRead1 ea s = .error f → s.pointerFails p a ptr f))) ∧
      (∀ p : OpenParams, p.pageWrap = .straight →
        (∀ f, memRead2 ptr s = .error f → s.pointerFails p a ptr f) ∧
        (∀ ea : Word, memRead2 ptr s = .ok ea →
          (∀ v, memRead1 ea s = .ok v → s.pointerJumps p a ptr ea v) ∧
          (∀ f, memRead1 ea s = .error f → s.pointerFails p a ptr f))) ∧
      (∀ p : OpenParams, p.pageWrap = .refuse →
        execUnder p (.jmpInd ptr) s = .refused (.jmpIndPageWrap ptr) ∧
        (s.holdsAt a (encode (.jmpInd ptr)) → decodeUnder p a s = .refused (.jmpIndPageWrap ptr) ∧
          ∀ n, decodeNUnder p (n + 1) a s = .refused (.jmpIndPageWrap ptr)) ∧
        (∀ b op n, decodeUnder p b s = .next op →
          decodeNUnder p n (b + BitVec.ofNat 16 op.length) s = .refused (.jmpIndPageWrap ptr) →
          decodeNUnder p (n + 1) b s = .refused (.jmpIndPageWrap ptr))))

/-- Mode `rel`: `base` is the address of the next instruction, the target is that plus the displacement as
a signed byte, modulo 65536; its byte is read, taken or not, and a failure of that read is the error (R181). -/
def Obligations.RelativeOperandResolves : Prop :=
  ∀ (a tgt : Word) (mn : Mnemonic) (s : State) (d : Byte),
    (tgt.toNat : Int) = (a.toNat + 2 + d.toInt) % 65536 →
    (∀ v, memRead1 tgt s = .ok v → ∃ op, describe a mn (.rel d) s = .ok op ∧
      op.addr = some tgt ∧ op.val = some v ∧ op.base = some (a + 2)) ∧
    (∀ f, memRead1 tgt s = .error f → describe a mn (.rel d) s = .error f)

/-- The byte at the effective address is read whatever the instruction: an operand in memory resolves to an
address whose byte can be read, and the record holds that byte (R182, R350, the latter derived by the
spec). -/
def Obligations.OperandByteIsRead : Prop :=
  ∀ (a : Word) (mn : Mnemonic) (o : Operand) (s : State) (op : DecodedOp) (ea : Word),
    describe a mn o s = .ok op → op.addr = some ea →
    ∃ v, memRead1 ea s = .ok v ∧ op.val = some v

/-- Decoding reads registers AC, X, Y and the bus, nothing else: two states that agree on them give the
same record, the same sequence or the same error (R191). -/
def Obligations.DecodeReadsIndexAndBus : Prop :=
  ∀ (s t : State), t.ac = s.ac → t.x = s.x → t.y = s.y → t.ram = s.ram → t.cart = s.cart →
    ∀ a : Word, decodeAt a t = decodeAt a s ∧ ∀ n, decodeN n a t = decodeN n a s

/-- DecodeN is Decode repeated with the cursor moved by each length, against one state; it stops with the
first error and is empty for 0 (R190), and so it is with the OPEN parameters of R7 as an argument. -/
def Obligations.LookaheadRepeatsDecode : Prop :=
  ∀ (a : Word) (s : State),
    decodeN 0 a s = .ok [] ∧
    (∀ n f, decodeAt a s = .error f → decodeN (n + 1) a s = .error f) ∧
    (∀ n op, decodeAt a s = .ok op →
      (∀ f, decodeN n (a + BitVec.ofNat 16 op.length) s = .error f → decodeN (n + 1) a s = .error f) ∧
      (∀ ops, decodeN n (a + BitVec.ofNat 16 op.length) s = .ok ops →
        decodeN (n + 1) a s = .ok (op :: ops))) ∧
    (∀ n ops, decodeN n a s = .ok ops → ops.length = n) ∧
    (∀ p : OpenParams, decodeNUnder p 0 a s = .next [] ∧
      (∀ n f, decodeUnder p a s = .fault f → decodeNUnder p (n + 1) a s = .fault f) ∧
      (∀ n op, decodeUnder p a s = .next op →
        (∀ f, decodeNUnder p n (a + BitVec.ofNat 16 op.length) s = .fault f →
          decodeNUnder p (n + 1) a s = .fault f) ∧
        (∀ ops, decodeNUnder p n (a + BitVec.ofNat 16 op.length) s = .next ops →
          decodeNUnder p (n + 1) a s = .next (op :: ops))) ∧
      (∀ n ops, decodeNUnder p n a s = .next ops → ops.length = n))

/-! ### The step -/

/-- When the bytes at `pc` decode to an instruction, the step is that instruction's execution, with
nothing around it: `pc` still addresses the instruction while it executes, and the advance and the count
are part of `exec` (R200, R121). With the OPEN parameters of R7 as an argument the step is the execution
under them, and `exec` is the execution under the machine's own (log 1, log 2). -/
def Obligations.StepRunsDecodedInstruction : Prop :=
  (∀ (s : State) (bs : List Byte) (i : Instr), decode bs = .ok (i, []) → s.holdsAt s.pc bs →
    step s = exec i s ∧ ∀ p, stepUnder p s = execUnder p i s) ∧
  (∀ (i : Instr) (s : State), execUnder Config.openParams i s = exec i s)

/-- An error of Decode at `pc` is the error of the step; it is the first read that fails, in the order
opcode, operand, operand resolution (R200, R311). What resolution's error is, per mode, is said by the four
statements on operands in memory; of `abs` it is said here for the step: the read at the effective address
is made whatever the mnemonic, the stores and jumps included (R182, R183, R350). -/
def Obligations.FirstFailedReadEndsStep : Prop :=
  (∀ (s : State) (f : Fault), decodeAt s.pc s = .error f → step s = .fault f) ∧
  (∀ (s : State) (a : Word) (f : Fault), memRead1 a s = .error f → decodeAt a s = .error f) ∧
  (∀ (s : State) (a : Word) (i : Instr) (b : Byte) (f : Fault), encode i = [i.opcode, b] →
    memRead1 a s = .ok i.opcode → memRead1 (a + 1) s = .error f → decodeAt a s = .error f) ∧
  (∀ (s : State) (a : Word) (i : Instr) (b c : Byte) (f : Fault), encode i = [i.opcode, b, c] →
    memRead1 a s = .ok i.opcode → memRead2 (a + 1) s = .error f → decodeAt a s = .error f) ∧
  (∀ (s : State) (a : Word) (i : Instr) (mn : Mnemonic) (o : Operand) (f : Fault),
    i.form = some (mn, o) → s.holdsAt a (encode i) → describe a mn o s = .error f →
    decodeAt a s = .error f) ∧
  (∀ (s : State) (i : Instr) (mn : Mnemonic) (w : Word) (f : Fault),
    i.form = some (mn, .mem (.abs w)) → s.holdsAt s.pc (encode i) → memRead1 w s = .error f →
    step s = .fault f)

/-- After a decode that succeeds nothing fails: the step answers a next state, for every instruction but
BRK, whose vector read can fail (R211, derived by the spec). -/
def Obligations.StepAnswersAfterDecode : Prop :=
  ∀ (s : State) (op : DecodedOp), decodeAt s.pc s = .ok op → op.mnemonic ≠ .BRK →
    ∃ t, step s = .next t

/-- Every step keeps the memories in canonical form. The form is the model's own (log 4). -/
def Obligations.StepKeepsCanonicalMemory : Prop :=
  ∀ (s t : State), s.wf = true → step s = .next t → t.wf = true

/-- The state after reset, and every machine booted from an image, is in canonical form. The form is the
model's own (log 4). -/
def Obligations.ResetIsCanonical : Prop :=
  State.reset.wf = true ∧
  ∀ (withPrgRam : Bool) (image : List Byte) (s : State), boot withPrgRam image = .ok s → s.wf = true

/-- No step changes PRG-ROM, CHR or a cartridge flag, and PRG-RAM stays present or absent (R36, R82). -/
def Obligations.CartridgeOutlivesStep : Prop :=
  ∀ (s t : State), step s = .next t → romKept s t ∧ t.cart.prgRam.isSome = s.cart.prgRam.isSome

/-- No instruction changes bit 5 or bit 4 of the status register, so they read 1 after any number of steps
from a state in which they read 1, as Reset leaves them (R26). -/
def Obligations.UnusedAndBreakBitsStay : Prop :=
  (∀ (s t : State), step s = .next t →
    getFlag .unused t.sr = getFlag .unused s.sr ∧ getFlag .brk t.sr = getFlag .brk s.sr) ∧
  (∀ (s t u : State) (n : Nat), resetMachine s = .ok t → Sys2Proof.core.run n t = .next u →
    getFlag .unused u.sr = true ∧ getFlag .brk u.sr = true)

/-- A flag that the table of R27 does not list for a mnemonic is left unchanged by it. The row of BRK is
the model's choice BRK_POLICY = canonical (log 1). -/
def Obligations.OnlyListedFlagsChange : Prop :=
  ∀ (i : Instr) (mn : Mnemonic) (o : Operand) (s t : State), i.form = some (mn, o) →
    exec i s = .next t → flagsKept (flagsWritten mn) s t

/-- The accumulator, X, Y and the stack pointer change only by the mnemonics whose rules write them (R230 to
R285). -/
def Obligations.OnlyNamedRegistersChange : Prop :=
  ∀ (i : Instr) (mn : Mnemonic) (o : Operand) (s t : State), i.form = some (mn, o) →
    exec i s = .next t →
    (writesAc mn o.mode = false → t.ac = s.ac) ∧ (writesX mn = false → t.x = s.x) ∧
    (writesY mn = false → t.y = s.y) ∧ (writesSp mn = false → t.sp = s.sp)

/-- The bytes an instruction can change: the cell of its effective address for the forms that store there,
the cells it pushes to, and no other; a form of neither kind leaves every byte as it was (R207, R209,
R211). -/
def Obligations.OnlyStoredBytesChange : Prop :=
  ∀ (i : Instr) (mn : Mnemonic) (o : Operand) (s t : State), i.form = some (mn, o) →
    exec i s = .next t →
    (storesAtOperand mn o.mode = false → bytesPushed mn = 0 → sameBytes s t) ∧
    (storesAtOperand mn o.mode = true → ∀ op ea, describe s.pc mn o s = .ok op → op.addr = some ea →
      ∀ b, ¬ sameCell ea b → memRead1 b t = memRead1 b s) ∧
    (storesAtOperand mn o.mode = false → ∀ b,
      (∀ k, k < bytesPushed mn → ¬ sameCell (stackAddr (s.sp - BitVec.ofNat 8 k)) b) →
      memRead1 b t = memRead1 b s)

/-- After an instruction that is no control transfer, `pc` is past its bytes, modulo 65536 (R201, R202; BRK
is a control transfer by log 1). -/
def Obligations.ProgramCounterAdvances : Prop :=
  ∀ (i : Instr) (mn : Mnemonic) (o : Operand) (s t : State), i.form = some (mn, o) →
    mn.isControlTransfer = false → exec i s = .next t →
    t.pc.toNat = (s.pc.toNat + o.mode.length) % 65536

/-- The count of every step: the base count plus the page penalty, between 2 and 7, or between 2 and 4 for a
branch (R205). -/
def Obligations.StepReturnsCycleCount : Prop :=
  ∀ (i : Instr) (mn : Mnemonic) (o : Operand) (s t : State) (op : DecodedOp), i.form = some (mn, o) →
    describe s.pc mn o s = .ok op → exec i s = .next t →
    (o.mode ≠ .rel → t.cycles = op.count ∧ 2 ≤ t.cycles ∧ t.cycles ≤ 7) ∧
    (o.mode = .rel → 2 ≤ t.cycles ∧ t.cycles ≤ 4)

/-- No instruction but PHP and BRK, which push the status register, can tell two states apart that differ
in I, D and bits 5 and 4 of the status register alone: the outcomes are the same but for those bits (R236,
R310). -/
def Obligations.InterruptAndDecimalFlagsInert : Prop :=
  ∀ (i : Instr) (s s' : State), i ≠ .php → i ≠ .brk → s' = { s with sr := s'.sr } →
    flagsKept [.interruptDisable, .decimal, .brk, .unused] s s' →
    (∀ f, exec i s = .fault f → exec i s' = .fault f) ∧
    (∀ t, exec i s = .next t → ∃ t', exec i s' = .next t' ∧ t' = { t with sr := t'.sr } ∧
      flagsKept [.interruptDisable, .decimal, .brk, .unused] t t')

/-! ### What each instruction does -/

/-- SetZN (R208). -/
def Obligations.ZeroNegativeFollowByte : Prop :=
  ∀ (v sr : Byte), getFlag .zero (setZN v sr) = decide (v = 0) ∧
    getFlag .negative (setZN v sr) = v.getLsbD 7 ∧
    ∀ f, f ≠ .zero → f ≠ .negative → getFlag f (setZN v sr) = getFlag f sr

/-- LDA, LDX, LDY in every mode: the register takes the operand byte, N and Z follow it, nothing else
changes (R230 to R232). -/
def Obligations.LoadsTakeOperandByte : Prop :=
  ∀ (i : Instr) (s : State) (op : DecodedOp) (m : Byte), op.val = some m →
    (resolvesTo i .LDA s op → ∃ t, exec i s = .next t ∧
      t = { s with ac := m, sr := t.sr, pc := t.pc, cycles := t.cycles } ∧
      zeroNegativeOf m t ∧ flagsKept [.zero, .negative] s t ∧ endsPast op s t) ∧
    (resolvesTo i .LDX s op → ∃ t, exec i s = .next t ∧
      t = { s with x := m, sr := t.sr, pc := t.pc, cycles := t.cycles } ∧
      zeroNegativeOf m t ∧ flagsKept [.zero, .negative] s t ∧ endsPast op s t) ∧
    (resolvesTo i .LDY s op → ∃ t, exec i s = .next t ∧
      t = { s with y := m, sr := t.sr, pc := t.pc, cycles := t.cycles } ∧
      zeroNegativeOf m t ∧ flagsKept [.zero, .negative] s t ∧ endsPast op s t)

/-- STA, STX, STY in every mode: the register's byte is stored at the effective address, with what each
region makes of a store; no register and no flag changes (R233 to R235). -/
def Obligations.StoresPutRegisterByte : Prop :=
  ∀ (i : Instr) (mn : Mnemonic) (s : State) (op : DecodedOp) (v : Byte),
    (mn = .STA ∧ v = s.ac) ∨ (mn = .STX ∧ v = s.x) ∨ (mn = .STY ∧ v = s.y) →
    resolvesTo i mn s op →
    ∃ t ea, exec i s = .next t ∧ op.addr = some ea ∧ storedByte ea v s t ∧
      registersKept s t ∧ t.sr = s.sr ∧ romKept s t ∧ endsPast op s t

/-- ADC in every mode: the 9-bit sum with the carry; C is its bit 8, V says that the signed sum does not
fit in a byte; D is not consulted (R236). -/
def Obligations.AdcAddsWithCarry : Prop :=
  ∀ (i : Instr) (s : State) (op : DecodedOp) (m : Byte), resolvesTo i .ADC s op → op.val = some m →
    ∃ t, exec i s = .next t ∧
      t = { s with ac := t.ac, sr := t.sr, pc := t.pc, cycles := t.cycles } ∧
      t.ac.toNat = (s.ac.toNat + m.toNat + (getFlag .carry s.sr).toNat) % 256 ∧
      getFlag .carry t.sr = decide (s.ac.toNat + m.toNat + (getFlag .carry s.sr).toNat > 0xFF) ∧
      getFlag .overflow t.sr = decide (((s.ac ^^^ t.ac) &&& (m ^^^ t.ac) &&& 0x80) ≠ 0) ∧
      getFlag .overflow t.sr =
        decide (s.ac.toInt + m.toInt + (getFlag .carry s.sr).toNat < -128 ∨
          127 < s.ac.toInt + m.toInt + (getFlag .carry s.sr).toNat) ∧
      zeroNegativeOf t.ac t ∧ flagsKept [.negative, .overflow, .zero, .carry] s t ∧ endsPast op s t

/-- SBC in every mode: the difference with the borrow, which is the complement of C; C is 1 when no borrow
was needed, V says that the signed difference does not fit in a byte (R237). -/
def Obligations.SbcSubtractsWithBorrow : Prop :=
  ∀ (i : Instr) (s : State) (op : DecodedOp) (m : Byte), resolvesTo i .SBC s op → op.val = some m →
    ∃ t, exec i s = .next t ∧
      t = { s with ac := t.ac, sr := t.sr, pc := t.pc, cycles := t.cycles } ∧
      t.ac.toNat = (s.ac.toNat + (m ^^^ 0xFF).toNat + (getFlag .carry s.sr).toNat) % 256 ∧
      (t.ac.toNat : Int) = ((s.ac.toNat : Int) - m.toNat - (1 - (getFlag .carry s.sr).toNat)) % 256 ∧
      getFlag .carry t.sr =
        decide (0 ≤ (s.ac.toNat : Int) - m.toNat - (1 - (getFlag .carry s.sr).toNat)) ∧
      getFlag .overflow t.sr = decide (((s.ac ^^^ t.ac) &&& ((m ^^^ 0xFF) ^^^ t.ac) &&& 0x80) ≠ 0) ∧
      getFlag .overflow t.sr =
        decide (s.ac.toInt - m.toInt - (1 - (getFlag .carry s.sr).toNat) < -128 ∨
          127 < s.ac.toInt - m.toInt - (1 - (getFlag .carry s.sr).toNat)) ∧
      zeroNegativeOf t.ac t ∧ flagsKept [.negative, .overflow, .zero, .carry] s t ∧ endsPast op s t

/-- CMP, CPX, CPY in every mode: C from the unsigned comparison, Z from equality, N from bit 7 of the
difference; the register and V are kept (R238 to R240). -/
def Obligations.ComparesSetFlags : Prop :=
  ∀ (i : Instr) (mn : Mnemonic) (s : State) (op : DecodedOp) (r m : Byte),
    (mn = .CMP ∧ r = s.ac) ∨ (mn = .CPX ∧ r = s.x) ∨ (mn = .CPY ∧ r = s.y) →
    resolvesTo i mn s op → op.val = some m →
    ∃ t, exec i s = .next t ∧ t = { s with sr := t.sr, pc := t.pc, cycles := t.cycles } ∧
      getFlag .carry t.sr = decide (m.toNat ≤ r.toNat) ∧ getFlag .zero t.sr = decide (r = m) ∧
      getFlag .negative t.sr = decide (128 ≤ (r.toNat + 256 - m.toNat) % 256) ∧
      flagsKept [.negative, .zero, .carry] s t ∧ endsPast op s t

/-- INC and DEC on memory in every mode: the byte plus or minus one is stored at the effective address and
N and Z follow it, also where the store is dropped; C and V are kept (R241, R244). -/
def Obligations.MemoryStepsByOne : Prop :=
  ∀ (i : Instr) (mn : Mnemonic) (s : State) (op : DecodedOp) (m r : Byte),
    (mn = .INC ∧ r.toNat = (m.toNat + 1) % 256) ∨ (mn = .DEC ∧ r.toNat = (m.toNat + 255) % 256) →
    resolvesTo i mn s op → op.val = some m →
    ∃ t ea, exec i s = .next t ∧ op.addr = some ea ∧ storedByte ea r s t ∧ registersKept s t ∧
      zeroNegativeOf r t ∧ flagsKept [.zero, .negative] s t ∧ romKept s t ∧ endsPast op s t

/-- INX, INY, DEX, DEY: the register steps by one modulo 256, N and Z follow it (R242, R243, R245, R246). -/
def Obligations.IndexStepsByOne : Prop :=
  ∀ (s : State) (r : Byte),
    (r.toNat = (s.x.toNat + 1) % 256 → exec .inx s =
      .next { s with x := r, sr := setZN r s.sr, pc := s.pc + 1, cycles := 2 }) ∧
    (r.toNat = (s.y.toNat + 1) % 256 → exec .iny s =
      .next { s with y := r, sr := setZN r s.sr, pc := s.pc + 1, cycles := 2 }) ∧
    (r.toNat = (s.x.toNat + 255) % 256 → exec .dex s =
      .next { s with x := r, sr := setZN r s.sr, pc := s.pc + 1, cycles := 2 }) ∧
    (r.toNat = (s.y.toNat + 255) % 256 → exec .dey s =
      .next { s with y := r, sr := setZN r s.sr, pc := s.pc + 1, cycles := 2 })

/-- AND, ORA, EOR in every mode, bit by bit; N and Z follow the result, nothing else changes (R247 to
R249). -/
def Obligations.LogicalOpsCombineBits : Prop :=
  ∀ (i : Instr) (mn : Mnemonic) (f : Bool → Bool → Bool) (s : State) (op : DecodedOp) (m : Byte),
    (mn = .AND ∧ f = and) ∨ (mn = .ORA ∧ f = or) ∨ (mn = .EOR ∧ f = xor) →
    resolvesTo i mn s op → op.val = some m →
    ∃ t, exec i s = .next t ∧
      t = { s with ac := t.ac, sr := t.sr, pc := t.pc, cycles := t.cycles } ∧
      (∀ k, k < 8 → t.ac.getLsbD k = f (s.ac.getLsbD k) (m.getLsbD k)) ∧
      zeroNegativeOf t.ac t ∧ flagsKept [.zero, .negative] s t ∧ endsPast op s t

/-- BIT in both modes: Z from the conjunction, N and V from bits 7 and 6 of the operand; only the status
register changes, and C is kept (R250). -/
def Obligations.BitTestsOperand : Prop :=
  ∀ (i : Instr) (s : State) (op : DecodedOp) (m : Byte), resolvesTo i .BIT s op → op.val = some m →
    ∃ t, exec i s = .next t ∧ t = { s with sr := t.sr, pc := t.pc, cycles := t.cycles } ∧
      getFlag .zero t.sr = decide (s.ac &&& m = 0) ∧ getFlag .negative t.sr = m.getLsbD 7 ∧
      getFlag .overflow t.sr = m.getLsbD 6 ∧
      flagsKept [.negative, .overflow, .zero] s t ∧ endsPast op s t

/-- ASL, LSR, ROL, ROR in every mode: the result as a number, the bit shifted out in C, N and Z from the
result; it goes to the accumulator in mode `acc` and is stored at the effective address in the others, the
flags being set also where the store is dropped (R251 to R254). -/
def Obligations.ShiftsAndRotatesMoveBits : Prop :=
  ∀ (i : Instr) (mn : Mnemonic) (s : State) (op : DecodedOp) (m r : Byte) (out : Bool),
    (mn = .ASL ∧ r.toNat = 2 * m.toNat % 256 ∧ out = m.getLsbD 7) ∨
    (mn = .LSR ∧ r.toNat = m.toNat / 2 ∧ out = m.getLsbD 0) ∨
    (mn = .ROL ∧ r.toNat = (2 * m.toNat + (getFlag .carry s.sr).toNat) % 256 ∧ out = m.getLsbD 7) ∨
    (mn = .ROR ∧ r.toNat = m.toNat / 2 + 128 * (getFlag .carry s.sr).toNat ∧ out = m.getLsbD 0) →
    resolvesTo i mn s op → op.val = some m →
    ∃ t, exec i s = .next t ∧ getFlag .carry t.sr = out ∧ zeroNegativeOf r t ∧
      flagsKept [.negative, .zero, .carry] s t ∧ endsPast op s t ∧
      (op.addr = none → t = { s with ac := r, sr := t.sr, pc := t.pc, cycles := t.cycles }) ∧
      (∀ ea, op.addr = some ea → storedByte ea r s t ∧ registersKept s t ∧ romKept s t)

/-- The eight branches: taken exactly when the flag has the value, `pc` is the target or the next
instruction, 2 cycles, 3 when taken, 4 when taken into another page than the next instruction's; nothing
else changes (R255 to R262). -/
def Obligations.BranchesTestTheirFlag : Prop :=
  ∀ (i : Instr) (mn : Mnemonic) (flag : Flag) (want : Bool) (s : State) (op : DecodedOp),
    branchTest mn = some (flag, want) → resolvesTo i mn s op →
    ∃ tgt, op.addr = some tgt ∧ op.base = some (s.pc + 2) ∧
      exec i s = .next
        (if getFlag flag s.sr = want then
          { s with pc := tgt, cycles := if page tgt ≠ page (s.pc + 2) then 4 else 3 }
        else { s with pc := s.pc + 2, cycles := 2 })

/-- JMP in both modes: `pc` is the effective address, 3 or 5 cycles, nothing else changes (R263). -/
def Obligations.JumpGoesToAddress : Prop :=
  ∀ (i : Instr) (s : State) (op : DecodedOp), resolvesTo i .JMP s op →
    ∃ ea, op.addr = some ea ∧
      exec i s = .next { s with pc := ea, cycles := if op.mode = .ind then 5 else 3 }

/-- JSR: the address of its last byte is pushed, high byte first, and `pc` is the effective address (R264). -/
def Obligations.JsrPushesReturnAddress : Prop :=
  ∀ (w : Word) (s : State) (op : DecodedOp), resolvesTo (.jsr w) .JSR s op →
    ∃ t ea, exec (.jsr w) s = .next t ∧ op.addr = some ea ∧ t.pc = ea ∧ t.sp = s.sp - 2 ∧
      t.ac = s.ac ∧ t.x = s.x ∧ t.y = s.y ∧ t.sr = s.sr ∧ t.cart = s.cart ∧ t.cycles = 6 ∧
      (s.wf = true → memRead1 (stackAddr s.sp) t = .ok (highByte (s.pc + 2)) ∧
        memRead1 (stackAddr (s.sp - 1)) t = .ok (lowByte (s.pc + 2))) ∧
      (∀ b, ¬ sameCell (stackAddr s.sp) b → ¬ sameCell (stackAddr (s.sp - 1)) b →
        memRead1 b t = memRead1 b s)

/-- RTS: `pc` is the pulled word plus one, low byte pulled first; SP ends two higher (R265). RTI: the
status register but for bits 5 and 4 is pulled first, then `pc`, with nothing added; SP ends three higher
(R266). -/
def Obligations.ReturnsPullFromStack : Prop :=
  (∀ s : State, ∃ lo hi, memRead1 (stackAddr (s.sp + 1)) s = .ok lo ∧
    memRead1 (stackAddr (s.sp + 2)) s = .ok hi ∧
    exec .rts s = .next { s with pc := wordOf hi lo + 1, sp := s.sp + 2, cycles := 6 }) ∧
  (∀ s : State, ∃ p lo hi, memRead1 (stackAddr (s.sp + 1)) s = .ok p ∧
    memRead1 (stackAddr (s.sp + 2)) s = .ok lo ∧ memRead1 (stackAddr (s.sp + 3)) s = .ok hi ∧
    exec .rti s = .next
      { s with sr := (p &&& 0xCF) ||| (s.sr &&& 0x30), pc := wordOf hi lo, sp := s.sp + 3, cycles := 6 })

/-- BRK by the model's choice BRK_POLICY = canonical, which R267 leaves open (D25; DESIGN CHOICE, log 1):
with a ROM to read the vector from, it pushes `pc + 2`, high byte first, and the status byte with bits 5
and 4 set, sets I and goes to the vector; without one it stops with the vector read's error. With the
parameter as an argument, `canonical` is this and `refuse` gives the execution no meaning. -/
def Obligations.BrkEntersThroughVector : Prop :=
  (∀ s : State, s.cart.prgUnits ≠ 0 → ∃ t v, memRead2 0xFFFE s = .ok v ∧ exec .brk s = .next t ∧
    t.pc = v ∧ t.sp = s.sp - 3 ∧ t.ac = s.ac ∧ t.x = s.x ∧ t.y = s.y ∧ t.cart = s.cart ∧
    t.cycles = 7 ∧ getFlag .interruptDisable t.sr = true ∧ flagsKept [.interruptDisable] s t ∧
    (s.wf = true → memRead1 (stackAddr s.sp) t = .ok (highByte (s.pc + 2)) ∧
      memRead1 (stackAddr (s.sp - 1)) t = .ok (lowByte (s.pc + 2)) ∧
      memRead1 (stackAddr (s.sp - 2)) t = .ok (s.sr ||| 0x30)) ∧
    (∀ b, ¬ sameCell (stackAddr s.sp) b → ¬ sameCell (stackAddr (s.sp - 1)) b →
      ¬ sameCell (stackAddr (s.sp - 2)) b → memRead1 b t = memRead1 b s)) ∧
  (∀ s : State, s.cart.prgUnits = 0 → exec .brk s = .fault (.addressOutOfRange 0xFFFE .two)) ∧
  (∀ (p : OpenParams) (s : State), p.brk = .canonical → execUnder p .brk s = exec .brk s) ∧
  (∀ (p : OpenParams) (s : State), p.brk = .refuse →
    execUnder p .brk s = .refused (.brkPolicy s.pc) ∧
    ∀ a, s.holdsAt a (encode .brk) → ∃ op, decodeUnder p a s = .next op ∧
      op.mnemonic = .BRK ∧ op.mode = .impl ∧ op.length = 1 ∧ op.cycles = 7)

/-- PHA and PHP: the accumulator, or the status register with bits 5 and 4 set, is stored at the stack
pointer, which steps down; nothing else changes (R268, R269). -/
def Obligations.PushesStoreOnStack : Prop :=
  ∀ (i : Instr) (v : Byte) (s : State),
    (i = .pha ∧ v = s.ac) ∨ (i = .php ∧ v = s.sr ||| 0x30) →
    ∃ t, exec i s = .next t ∧ storedByte (stackAddr s.sp) v s t ∧ t.sp = s.sp - 1 ∧
      t.ac = s.ac ∧ t.x = s.x ∧ t.y = s.y ∧ t.sr = s.sr ∧ t.cart = s.cart ∧
      t.pc = s.pc + 1 ∧ t.cycles = 3

/-- PLA and PLP: the byte above the stack pointer goes to the accumulator, with N and Z, or to the status
register but for bits 5 and 4; SP steps up (R270, R271). -/
def Obligations.PullsReadFromStack : Prop :=
  ∀ s : State, ∃ v, memRead1 (stackAddr (s.sp + 1)) s = .ok v ∧
    exec .pla s = .next
      { s with ac := v, sr := setZN v s.sr, sp := s.sp + 1, pc := s.pc + 1, cycles := 4 } ∧
    exec .plp s = .next
      { s with sr := (v &&& 0xCF) ||| (s.sr &&& 0x30), sp := s.sp + 1, pc := s.pc + 1, cycles := 4 }

/-- CLC, SEC, CLI, SEI, CLV, CLD, SED: one bit of the status register is written, the others are kept, two
cycles (R272 to R278). -/
def Obligations.FlagInstructionsWriteOneBit : Prop :=
  ∀ (i : Instr) (f : Flag) (v : Bool) (s : State),
    (i, f, v) ∈ [(Instr.clc, Flag.carry, false), (.sec, .carry, true), (.cli, .interruptDisable, false),
      (.sei, .interruptDisable, true), (.clv, .overflow, false), (.cld, .decimal, false),
      (.sed, .decimal, true)] →
    ∃ t, exec i s = .next t ∧ t = { s with sr := t.sr, pc := s.pc + 1, cycles := 2 } ∧
      getFlag f t.sr = v ∧ flagsKept [f] s t

/-- TAX, TAY, TXA, TYA, TSX move a byte and set N and Z from it; TXS moves one and sets no flag; NOP only
advances; two cycles each, nothing else changes (R279 to R285). -/
def Obligations.TransfersMoveByte : Prop :=
  ∀ s : State,
    exec .tax s = .next { s with x := s.ac, sr := setZN s.ac s.sr, pc := s.pc + 1, cycles := 2 } ∧
    exec .tay s = .next { s with y := s.ac, sr := setZN s.ac s.sr, pc := s.pc + 1, cycles := 2 } ∧
    exec .txa s = .next { s with ac := s.x, sr := setZN s.x s.sr, pc := s.pc + 1, cycles := 2 } ∧
    exec .tya s = .next { s with ac := s.y, sr := setZN s.y s.sr, pc := s.pc + 1, cycles := 2 } ∧
    exec .tsx s = .next { s with x := s.sp, sr := setZN s.sp s.sr, pc := s.pc + 1, cycles := 2 } ∧
    exec .txs s = .next { s with sp := s.x, pc := s.pc + 1, cycles := 2 } ∧
    exec .nop s = .next { s with pc := s.pc + 1, cycles := 2 }

/-- RTS undoes JSR, PLP undoes PHP, RTI undoes BRK: run in the state the first one left, the second gives
back the stack pointer and the status register, and returns past the JSR, or past the byte after the BRK
(R264 to R266, R271; BRK by log 1). -/
def Obligations.ReturnsUndoCalls : Prop :=
  (∀ (w : Word) (s t : State), s.wf = true → exec (.jsr w) s = .next t →
    ∃ u, exec .rts t = .next u ∧ u.pc = s.pc + 3 ∧ registersKept s u ∧ u.sr = s.sr) ∧
  (∀ s t : State, s.wf = true → exec .php s = .next t →
    ∃ u, exec .plp t = .next u ∧ registersKept s u ∧ u.sr = s.sr) ∧
  (∀ s t : State, s.wf = true → exec .brk s = .next t →
    ∃ u, exec .rti t = .next u ∧ u.pc = s.pc + 2 ∧ registersKept s u ∧ u.sr = s.sr)

/-! ### Memory, bus, cartridge, reset -/

/-- Push and Pull: they never fail, wrap within the stack page, and a 16-bit push puts the low byte at the
lower address (R209, R210). -/
def Obligations.StackStaysInItsPage : Prop :=
  (∀ sp : Byte, (stackAddr sp).toNat = 0x100 + sp.toNat) ∧
  (∀ (v : Byte) (s : State), ∃ t, push v s = .ok t ∧ t.sp.toNat = (s.sp.toNat + 255) % 256 ∧
    storedByte (stackAddr s.sp) v s t ∧ t = { s with ram := t.ram, sp := t.sp }) ∧
  (∀ (w : Word) (s : State), ∃ t, pushWord w s = .ok t ∧ t.sp.toNat = (s.sp.toNat + 254) % 256 ∧
    t = { s with ram := t.ram, sp := t.sp } ∧
    (s.wf = true → memRead1 (stackAddr s.sp) t = .ok (highByte w) ∧
      memRead1 (stackAddr (s.sp - 1)) t = .ok (lowByte w))) ∧
  (∀ s : State, (pulled s) = { s with sp := s.sp + 1 } ∧
    ∃ v, pullByte s = .ok v ∧ memRead1 (stackAddr (s.sp + 1)) s = .ok v) ∧
  (∀ s : State, ∃ lo hi, pullByte s = .ok lo ∧ pullByte (pulled s) = .ok hi ∧
    pullWord s = .ok (wordOf hi lo))

/-- A byte store to internal RAM never fails and is seen at every mirror of its cell, and at no other
address; a read of internal RAM never fails (R92). -/
def Obligations.RamMirrorsEveryStore : Prop :=
  ∀ (a : Word) (s : State), a.toNat < 0x2000 →
    (∃ b, memRead1 a s = .ok b) ∧
    (∀ b : Word, b.toNat < 0x2000 → b.toNat % 0x800 = a.toNat % 0x800 → memRead1 b s = memRead1 a s) ∧
    (∀ v : Byte, ∃ t, memWrite1 a v s = .ok t ∧
      (s.wf = true → ∀ b : Word, b.toNat < 0x2000 → b.toNat % 0x800 = a.toNat % 0x800 →
        memRead1 b t = .ok v) ∧
      (∀ b : Word, ¬ sameCell a b → memRead1 b t = memRead1 b s) ∧ t = { s with ram := t.ram })

/-- The PPU region reads 0 in both widths, drops stores of both widths, and never fails (R93). -/
def Obligations.PpuRegionReadsZero : Prop :=
  ∀ (a : Word) (s : State), 0x2000 ≤ a.toNat → a.toNat < 0x4000 →
    memRead1 a s = .ok 0 ∧ memRead2 a s = .ok 0 ∧
    (∀ v, memWrite1 a v s = .ok s) ∧ (∀ w, memWrite2 a w s = .ok s)

/-- The ROM window reads PRG-ROM modulo its length, fails for an empty PRG-ROM, and a 16 KiB one is seen
twice (R81); stores of both widths change nothing and never fail (R82). -/
def Obligations.RomWindowMirrorsAndDropsStores : Prop :=
  ∀ (a : Word) (s : State), 0x8000 ≤ a.toNat →
    (s.cart.prgLen = 0 → memRead1 a s = .error (.addressOutOfRange a.toNat .one) ∧
      memRead2 a s = .error (.addressOutOfRange a.toNat .two)) ∧
    (s.cart.prgLen ≠ 0 →
      memRead1 a s = .ok (Memory.read s.cart.prgRom ((a.toNat - 0x8000) % s.cart.prgLen))) ∧
    (s.cart.prgUnits = 1 → a.toNat < 0xC000 → memRead1 (a + 0x4000) s = memRead1 a s) ∧
    (∀ v, memWrite1 a v s = .ok s) ∧ (∀ w, memWrite2 a w s = .ok s)

/-- An address of the cartridge region with nothing behind it fails in both widths and directions: 0x4000 to
0x7FFF without PRG-RAM, 0x4000 to 0x5FFF with it (R84). -/
def Obligations.UnbackedAddressesFail : Prop :=
  ∀ (a : Word) (s : State), 0x4000 ≤ a.toNat →
    a.toNat < (if s.cart.prgRam.isSome = true then 0x6000 else 0x8000) →
    memRead1 a s = .error (.addressOutOfRange a.toNat .one) ∧
    memRead2 a s = .error (.addressOutOfRange a.toNat .two) ∧
    (∀ v, memWrite1 a v s = .error (.addressOutOfRange a.toNat .one)) ∧
    (∀ w, memWrite2 a w s = .error (.addressOutOfRange a.toNat .two))

/-- PRG-RAM when present: its window reads its cells and writes through (R83, with the size of log 12). -/
def Obligations.PrgRamWritesThrough : Prop :=
  ∀ (a : Word) (s : State) (m : Memory), s.cart.prgRam = some m → 0x6000 ≤ a.toNat → a.toNat < 0x8000 →
    memRead1 a s = .ok (Memory.read m (a.toNat - 0x6000)) ∧
    ∀ v : Byte, ∃ t, memWrite1 a v s = .ok t ∧ (s.wf = true → memRead1 a t = .ok v) ∧
      (∀ b, b ≠ a → memRead1 b t = memRead1 b s) ∧ romKept s t ∧ t = { s with cart := t.cart }

/-- A 16-bit read that answers is the two bytes at its address and the next one, little-endian; in RAM it
fails exactly at the four addresses where a copy of the block ends, in ROM exactly where the offset is the
last one and at 0xFFFF (R96; for a PRG-ROM above 32 KiB the failure at 0xFFFF follows R86, DEDUCED, log 15),
in PRG-RAM, with the size of log 12, exactly at 0x7FFF (R86). -/
def Obligations.WordReadsAreLittleEndian : Prop :=
  (∀ (a w : Word) (s : State), memRead2 a s = .ok w → (a.toNat < 0x2000 ∨ 0x4000 ≤ a.toNat) →
    memRead1 a s = .ok (lowByte w) ∧ memRead1 (a + 1) s = .ok (highByte w)) ∧
  (∀ (a : Word) (s : State), a.toNat < 0x2000 →
    (memRead2 a s = .error (.addressOutOfRange a.toNat .two) ↔
      a ∈ [(0x07FF : Word), 0x0FFF, 0x17FF, 0x1FFF]) ∧
    (a ∉ [(0x07FF : Word), 0x0FFF, 0x17FF, 0x1FFF] → ∃ w, memRead2 a s = .ok w)) ∧
  (∀ (a : Word) (s : State), 0x8000 ≤ a.toNat → s.cart.prgLen ≠ 0 →
    ((a.toNat - 0x8000) % s.cart.prgLen = s.cart.prgLen - 1 ∨ a = 0xFFFF →
      memRead2 a s = .error (.addressOutOfRange a.toNat .two)) ∧
    ((a.toNat - 0x8000) % s.cart.prgLen ≠ s.cart.prgLen - 1 → a ≠ 0xFFFF →
      ∃ w, memRead2 a s = .ok w)) ∧
  (∀ (a : Word) (s : State), s.cart.prgRam.isSome = true → 0x6000 ≤ a.toNat → a.toNat < 0x8000 →
    (a = 0x7FFF → memRead2 a s = .error (.addressOutOfRange a.toNat .two)) ∧
    (a ≠ 0x7FFF → ∃ w, memRead2 a s = .ok w)) ∧
  (∀ s : State, memRead2 0x3FFF s = .ok 0)

/-- A 16-bit store is both bytes or none: in RAM and PRG-RAM it fails at the last byte of the block, and
otherwise reads back, little-endian (R98). -/
def Obligations.WordStoresAreWhole : Prop :=
  ∀ (a w : Word) (s : State), storesAt a s →
    (a.toNat % 0x800 = 0x7FF ∧ a.toNat < 0x2000 ∨ a.toNat = 0x7FFF →
      memWrite2 a w s = .error (.addressOutOfRange a.toNat .two)) ∧
    (¬ (a.toNat % 0x800 = 0x7FF ∧ a.toNat < 0x2000 ∨ a.toNat = 0x7FFF) →
      ∃ t, memWrite2 a w s = .ok t ∧ romKept s t ∧ t = { s with ram := t.ram, cart := t.cart } ∧
        (s.wf = true → memRead2 a t = .ok w) ∧
        (∀ b, ¬ sameCell a b → ¬ sameCell (a + 1) b → memRead1 b t = memRead1 b s))

/-- LoadCartridge checks the length of the header, the magic bytes, the mapper nibble and the total length
in this order, and the first that fails gives the error; an image that passes loads (R69). -/
def Obligations.LoaderReportsFirstFailedCheck : Prop :=
  ∀ (p : Bool) (f : List Byte),
    (f.length < 16 → loadCartridge p f = .error .malformedHeader) ∧
    (16 ≤ f.length → f.take 4 ≠ [0x4E, 0x45, 0x53, 0x1A] → loadCartridge p f = .error .malformedHeader) ∧
    (16 ≤ f.length → f.take 4 = [0x4E, 0x45, 0x53, 0x1A] →
      ∀ b, f[6]? = some b → ∀ prg, f[4]? = some prg → ∀ chr, f[5]? = some chr →
      (16 ≤ b.toNat → loadCartridge p f = .error (.unsupportedMapper (BitVec.ofNat 4 (b.toNat / 16)))) ∧
      (b.toNat < 16 →
        (f.length < 16 + (if b.getLsbD 2 then 512 else 0) + prg.toNat * 16384 + chr.toNat * 8192 →
          loadCartridge p f = .error .truncatedImage) ∧
        (16 + (if b.getLsbD 2 then 512 else 0) + prg.toNat * 16384 + chr.toNat * 8192 ≤ f.length →
          ∃ c, loadCartridge p f = .ok c)))

/-- The cartridge of an image: PRG-ROM and CHR are the bytes after header and trainer, each as long as its
own header field says, the flags are the bits of byte 6, PRG-RAM is present as asked (R64 to R66, R70 to R73,
R78). -/
def Obligations.LoaderSlicesImage : Prop :=
  ∀ (p : Bool) (f : List Byte) (c : Cartridge) (prg chr b : Byte), loadCartridge p f = .ok c →
    f[4]? = some prg → f[5]? = some chr → f[6]? = some b →
    c.prgLen = prg.toNat * 16384 ∧ c.chrLen = chr.toNat * 8192 ∧
    (∀ i, i < c.prgLen → f[16 + (if b.getLsbD 2 then 512 else 0) + i]? = some (Memory.read c.prgRom i)) ∧
    (∀ i, i < c.chrLen →
      f[16 + (if b.getLsbD 2 then 512 else 0) + c.prgLen + i]? = some (Memory.read c.chr i)) ∧
    c.mirroring = b.getLsbD 0 ∧ c.battery = b.getLsbD 1 ∧ c.trainer = b.getLsbD 2 ∧
    c.mirroringOverride = b.getLsbD 3 ∧ c.mapper = 0 ∧ c.prgRam.isSome = p

/-- Reset reads the vector at 0xFFFC and writes pc, sp and sr, nothing else (R340). -/
def Obligations.ResetLoadsVector : Prop :=
  ∀ (s : State) (v : Word), memRead2 0xFFFC s = .ok v →
    resetMachine s = .ok { s with pc := v, sp := 0xFD, sr := 0x34 }

/-- Reset fails exactly when there is no PRG-ROM, with the address of the vector (R341, which the spec
derives). The state `State.reset` is what Reset leaves of a machine with the blank cartridge (log 3, log 5,
log 13). -/
def Obligations.ResetFailsWithoutRom : Prop :=
  (∀ s : State, s.cart.prgUnits = 0 ↔ resetMachine s = .error (.addressOutOfRange 0xFFFC .two)) ∧
  (∀ s : State, s.cart.prgUnits ≠ 0 → ∃ t, resetMachine s = .ok t) ∧
  resetMachine (State.powerUp Cartridge.blank) = .ok State.reset

end Statements
end

