-- ==== Sys2Proof/Laws/Bits.lean ====
section
/-! SUPPORT. The laws of concatenation and the two halves of a word. -/

namespace Sys2Proof.Machine

theorem wordOf_toNat (h l : Byte) : (wordOf h l).toNat = h.toNat * 256 + l.toNat := by
  have : l.toNat < 2 ^ 8 := l.isLt
  rw [wordOf, BitVec.toNat_append, Nat.shiftLeft_eq, Nat.mul_comm, ← Nat.two_pow_add_eq_or_of_lt this]

theorem lowByte_toNat (w : Word) : (lowByte w).toNat = w.toNat % 256 := by
  simp [lowByte]

theorem highByte_toNat (w : Word) : (highByte w).toNat = w.toNat / 256 := by
  have : w.toNat < 65536 := w.isLt
  simp only [highByte, BitVec.extractLsb'_toNat, Nat.shiftRight_eq_div_pow]
  omega

@[simp] theorem lowByte_wordOf (h l : Byte) : lowByte (wordOf h l) = l := by
  apply BitVec.eq_of_toNat_eq
  have : l.toNat < 256 := l.isLt
  rw [lowByte_toNat, wordOf_toNat]
  omega

@[simp] theorem highByte_wordOf (h l : Byte) : highByte (wordOf h l) = h := by
  apply BitVec.eq_of_toNat_eq
  have : l.toNat < 256 := l.isLt
  rw [highByte_toNat, wordOf_toNat]
  omega

/-- A word is the concatenation of its halves. -/
@[simp] theorem wordOf_high_low (w : Word) : wordOf (highByte w) (lowByte w) = w := by
  apply BitVec.eq_of_toNat_eq
  rw [wordOf_toNat, lowByte_toNat, highByte_toNat]
  omega

@[simp] theorem zext16_toNat (v : Byte) : (zext16 v).toNat = v.toNat := by
  have : v.toNat < 256 := v.isLt
  simp [zext16, BitVec.toNat_setWidth]
  omega

end Sys2Proof.Machine
end

