-- ==== Sys2Proof/Laws/Decode.lean ====
section
/-! SUPPORT. The decoder byte by byte: what an opcode byte settles, in terms of the encoder, so that no
proof unfolds the tables again. -/

namespace Sys2Proof

open Sys2Proof.Machine

/-- What the shape of an opcode byte must satisfy: it is the byte's own instruction, of as many bytes as the
shape asks for, and well formed. -/
def Shape.Agrees (b : Byte) : Shape → Prop
  | .one i => encode i = [b] ∧ i.wf = true
  | .two k => ∀ nn, encode (k nn) = [b, nn] ∧ (k nn).wf = true
  | .three k => ∀ w, encode (k w) = [b, lowByte w, highByte w] ∧ (k w).wf = true

/-- An instruction of a shape, with operand zero. -/
def Shape.sample : Shape → Instr
  | .one i => i
  | .two k => k 0
  | .three k => k 0

/-- The instruction of an illegal shape. -/
def Shape.isIllegal (b : Byte) : Shape → Bool
  | .one (.illegal c) => c = b
  | _ => false

theorem decodeOpcode_sample : ∀ b : Byte,
    (decodeOpcode b).sample.opcode = b ∧ (decodeOpcode b).sample.wf = true := by
  decide

theorem isIllegal_of_mem : ∀ b ∈ illegalBytes, (decodeOpcode b).isIllegal b = true := by
  decide

/-- The illegal set is exactly what the tables leave out (R141). -/
theorem decodeOpcode_illegal (b : Byte) : b ∈ illegalBytes ↔ decodeOpcode b = .one (.illegal b) := by
  constructor
  · intro h
    have := isIllegal_of_mem b h
    cases hs : decodeOpcode b with
    | one i =>
      rw [hs] at this
      cases i <;> simp only [Shape.isIllegal, decide_eq_true_eq, Bool.false_eq_true] at this
      rw [this]
    | two k => rw [hs] at this; cases this
    | three k => rw [hs] at this; cases this
  · intro h
    have := (decodeOpcode_sample b).2
    rw [h] at this
    exact List.contains_iff_mem.1 this

theorem agrees_one {b : Byte} {i : Instr} (h : decodeOpcode b = .one i)
    (ha : encode i = [b] ∧ i.wf = true) : (decodeOpcode b).Agrees b := h ▸ ha

theorem agrees_two {b : Byte} {k : Byte → Instr} (h : decodeOpcode b = .two k)
    (ha : ∀ nn, encode (k nn) = [b, nn] ∧ (k nn).wf = true) : (decodeOpcode b).Agrees b := h ▸ ha

theorem agrees_three {b : Byte} {k : Word → Instr} (h : decodeOpcode b = .three k)
    (ha : ∀ w, encode (k w) = [b, lowByte w, highByte w] ∧ (k w).wf = true) :
    (decodeOpcode b).Agrees b := h ▸ ha

theorem decodeOpcode_opcode (j : Instr) (hw : j.wf = true) :
    (decodeOpcode j.opcode).Agrees j.opcode := by
  cases j
  case illegal b =>
    have h := (decodeOpcode_illegal b).1 (List.contains_iff_mem.1 hw)
    exact agrees_one h ⟨rfl, hw⟩
  all_goals simp only [Instr.opcode]
  all_goals first
    | (refine agrees_one rfl ?_; exact ⟨rfl, rfl⟩)
    | (refine agrees_two rfl ?_; exact fun _ => ⟨rfl, rfl⟩)
    | (refine agrees_three rfl ?_; exact fun _ => ⟨rfl, rfl⟩)

/-- Every opcode byte's shape agrees with the encoder. -/
theorem decodeOpcode_agrees (b : Byte) : (decodeOpcode b).Agrees b := by
  have := decodeOpcode_opcode (decodeOpcode b).sample (decodeOpcode_sample b).2
  rwa [(decodeOpcode_sample b).1] at this

/-- Decoding a byte list by the shape of its first byte. -/
theorem decode_one {b : Byte} {i : Instr} (h : decodeOpcode b = .one i) (rest : List Byte) :
    decode (b :: rest) = .ok (i, rest) := by
  simp only [decode, h]

theorem decode_two {b : Byte} {k : Byte → Instr} (h : decodeOpcode b = .two k) (nn : Byte)
    (rest : List Byte) : decode (b :: nn :: rest) = .ok (k nn, rest) := by
  simp only [decode, h]

theorem decode_three {b : Byte} {k : Word → Instr} (h : decodeOpcode b = .three k) (ll hh : Byte)
    (rest : List Byte) : decode (b :: ll :: hh :: rest) = .ok (k (wordOf hh ll), rest) := by
  simp only [decode, h]

/-- Everything a decode that answers can have read. -/
theorem decode_cases {bs rest : List Byte} {i : Instr} (h : decode bs = .ok (i, rest)) :
    (∃ b, bs = b :: rest ∧ decodeOpcode b = .one i) ∨
      (∃ b nn k, bs = b :: nn :: rest ∧ decodeOpcode b = .two k ∧ i = k nn) ∨
      ∃ b ll hh k, bs = b :: ll :: hh :: rest ∧ decodeOpcode b = .three k ∧ i = k (wordOf hh ll) := by
  cases bs with
  | nil => cases h
  | cons b bs =>
    cases hs : decodeOpcode b with
    | one j =>
      rw [decode_one hs, Except.ok.injEq, Prod.mk.injEq] at h
      exact .inl ⟨b, by rw [h.2], by rw [hs, h.1]⟩
    | two k =>
      cases bs with
      | nil => simp [decode, hs] at h
      | cons nn bs =>
        rw [decode_two hs, Except.ok.injEq, Prod.mk.injEq] at h
        exact .inr (.inl ⟨b, nn, k, by rw [h.2], hs, h.1.symm⟩)
    | three k =>
      cases bs with
      | nil => simp [decode, hs] at h
      | cons ll bs =>
        cases bs with
        | nil => simp [decode, hs] at h
        | cons hh bs =>
          rw [decode_three hs, Except.ok.injEq, Prod.mk.injEq] at h
          exact .inr (.inr ⟨b, ll, hh, k, by rw [h.2], hs, h.1.symm⟩)

end Sys2Proof
end

