-- ==== Sys2Proof/Laws/Flags.lean ====
section
/-! SUPPORT. What the flag computations do to each bit of the status register, and what the sums and
shifts are as numbers. -/

namespace Sys2Proof.Machine

/-- A flag just written reads back; every other one reads as before. -/
theorem getFlag_putFlag (f g : Flag) (v : Bool) (sr : Byte) :
    getFlag f (putFlag g v sr) = if f = g then v else getFlag f sr := by
  cases f <;> cases g <;> cases v <;> simp [getFlag, putFlag, Flag.mask, Flag.bit]

@[simp] theorem getFlag_putFlag_same (f : Flag) (v : Bool) (sr : Byte) :
    getFlag f (putFlag f v sr) = v := by
  rw [getFlag_putFlag, if_pos rfl]

theorem getFlag_putFlag_ne {f g : Flag} (h : f ≠ g) (v : Bool) (sr : Byte) :
    getFlag f (putFlag g v sr) = getFlag f sr := by
  rw [getFlag_putFlag, if_neg h]

/-- Two status bytes with the same flags are the same byte. -/
theorem sr_ext {a b : Byte} (h : ∀ f, getFlag f a = getFlag f b) : a = b := by
  apply BitVec.eq_of_getLsbD_eq
  intro i hi
  have : i = 0 ∨ i = 1 ∨ i = 2 ∨ i = 3 ∨ i = 4 ∨ i = 5 ∨ i = 6 ∨ i = 7 := by omega
  rcases this with rfl | rfl | rfl | rfl | rfl | rfl | rfl | rfl
  · exact h .carry
  · exact h .zero
  · exact h .interruptDisable
  · exact h .decimal
  · exact h .brk
  · exact h .unused
  · exact h .overflow
  · exact h .negative

@[simp] theorem getFlag_zero_setZN (v sr : Byte) : getFlag .zero (setZN v sr) = decide (v = 0) := by
  simp [setZN, getFlag_putFlag]

@[simp] theorem getFlag_negative_setZN (v sr : Byte) : getFlag .negative (setZN v sr) = v.getLsbD 7 := by
  simp [setZN]

theorem getFlag_setZN_other {f : Flag} (hz : f ≠ .zero) (hn : f ≠ .negative) (v sr : Byte) :
    getFlag f (setZN v sr) = getFlag f sr := by
  simp [setZN, getFlag_putFlag, hz, hn]

/-- The pushed copy: bits 5 and 4 set, the other flags as they are. -/
theorem getFlag_pushedStatus (f : Flag) (sr : Byte) :
    getFlag f (pushedStatus sr) = (getFlag f sr || decide (f = .unused ∨ f = .brk)) := by
  cases f <;> simp [getFlag, pushedStatus, Flag.bit]

/-- The status after a pull: bits 5 and 4 kept, the other flags from the pulled byte. -/
theorem getFlag_pulledStatus (f : Flag) (p sr : Byte) :
    getFlag f (pulledStatus p sr) = if f = .unused ∨ f = .brk then getFlag f sr else getFlag f p := by
  cases f <;> simp [getFlag, pulledStatus, Flag.bit]

/-- The 8-bit sum as a number. -/
theorem addWithCarry_r (a m : Byte) (c : Bool) :
    (addWithCarry a m c).r.toNat = (a.toNat + m.toNat + c.toNat) % 256 := by
  simp [addWithCarry]

theorem addWithCarry_c (a m : Byte) (c : Bool) :
    (addWithCarry a m c).c = decide (a.toNat + m.toNat + c.toNat > 255) := by
  simp [addWithCarry]

/-- The overflow test in bits: the operands agree in bit 7 and the result does not. -/
theorem addWithCarry_v_bits (a m : Byte) (c : Bool) :
    (addWithCarry a m c).v =
      (xor (a.getLsbD 7) ((addWithCarry a m c).r.getLsbD 7) &&
        xor (m.getLsbD 7) ((addWithCarry a m c).r.getLsbD 7)) := by
  have key : ∀ x : Byte, decide ((x &&& 0x80) ≠ 0) = x.getLsbD 7 := by decide
  simp only [addWithCarry]
  rw [key, BitVec.getLsbD_and, BitVec.getLsbD_xor, BitVec.getLsbD_xor]

/-- Bit 7 of a byte as a comparison. -/
theorem getLsbD_seven (x : Byte) : x.getLsbD 7 = decide (128 ≤ x.toNat) := by
  revert x
  decide

/-- A byte as a signed number. -/
theorem toInt_byte (x : Byte) : x.toInt = if 128 ≤ x.toNat then (x.toNat : Int) - 256 else x.toNat := by
  rw [BitVec.toInt_eq_toNat_cond]
  have := x.isLt
  split <;> split <;> omega

/-- The overflow bit says that the signed sum leaves the range of a byte (R236). -/
theorem addWithCarry_v (a m : Byte) (c : Bool) :
    (addWithCarry a m c).v =
      decide (a.toInt + m.toInt + c.toNat < -128 ∨ a.toInt + m.toInt + c.toNat > 127) := by
  have ha := a.isLt
  have hm := m.isLt
  have hc : c.toNat ≤ 1 := by cases c <;> simp
  rw [addWithCarry_v_bits, getLsbD_seven, getLsbD_seven, getLsbD_seven, addWithCarry_r, toInt_byte,
    toInt_byte]
  generalize a.toNat = x at *
  generalize m.toNat = y at *
  generalize c.toNat = z at *
  by_cases h1 : 128 ≤ x <;> by_cases h2 : 128 ≤ y <;> by_cases h3 : 128 ≤ (x + y + z) % 256 <;>
    simp [h1, h2, h3] <;> omega

/-- The one's complement of a byte as a number. -/
theorem complement_toNat (m : Byte) : (m ^^^ 0xFF).toNat = 255 - m.toNat := by
  revert m
  decide

theorem complement_toInt (m : Byte) : (m ^^^ 0xFF).toInt = -1 - m.toInt := by
  revert m
  decide

end Sys2Proof.Machine
end

