-- ==== Sys2Proof/Laws/Memory.lean ====
section
/-! SUPPORT. The laws of a block's cells: read after write, the canonical form is kept, and two lists
in canonical form that read alike are equal. -/

namespace Sys2Proof.Machine

@[simp] theorem Memory.read_nil (o : Nat) : Memory.read [] o = Config.unwrittenByte := rfl

theorem Memory.read_cons (k : Nat) (v : Byte) (m : Memory) (o : Nat) :
    Memory.read ((k, v) :: m) o = if k = o then v else Memory.read m o := rfl

/-- Below its first offset a list in canonical form reads as unwritten. -/
theorem Memory.read_below {lo len : Nat} {m : Memory} (h : Memory.wfFrom lo len m = true) {o : Nat}
    (ho : o < lo) : Memory.read m o = Config.unwrittenByte := by
  induction m generalizing lo with
  | nil => rfl
  | cons p rest ih =>
    obtain ⟨k, v⟩ := p
    simp only [Memory.wfFrom, Bool.and_eq_true, decide_eq_true_eq] at h
    obtain ⟨⟨⟨h1, _⟩, _⟩, h4⟩ := h
    rw [Memory.read_cons, if_neg (by omega)]
    exact ih h4 (by omega)

/-- The canonical form does not depend on a smaller lower bound. -/
theorem Memory.wfFrom_mono {lo lo' len : Nat} {m : Memory} (h : Memory.wfFrom lo len m = true)
    (hlo : lo' ≤ lo) : Memory.wfFrom lo' len m = true := by
  cases m with
  | nil => rfl
  | cons p rest =>
    simp only [Memory.wfFrom, Bool.and_eq_true, decide_eq_true_eq] at h ⊢
    exact ⟨⟨⟨by omega, h.1.1.2⟩, h.1.2⟩, h.2⟩

/-- A read after a write, for every offset, on cells in canonical form. -/
theorem Memory.read_write_from {lo len : Nat} {m : Memory} (h : Memory.wfFrom lo len m = true)
    (o : Nat) (v : Byte) (q : Nat) :
    Memory.read (Memory.write m o v) q = if q = o then v else Memory.read m q := by
  induction m generalizing lo with
  | nil =>
    unfold Memory.write
    by_cases hq : q = o
    · subst hq
      split <;> simp_all [Memory.read_cons]
    · split <;> simp [Memory.read_cons, Ne.symm hq]
  | cons p rest ih =>
    obtain ⟨k, w⟩ := p
    simp only [Memory.wfFrom, Bool.and_eq_true, decide_eq_true_eq] at h
    obtain ⟨⟨⟨_, _⟩, _⟩, h4⟩ := h
    unfold Memory.write
    by_cases hlt : o < k
    · rw [if_pos hlt]
      by_cases hv : v = Config.unwrittenByte
      · rw [if_pos hv]
        by_cases hq : q = o
        · rw [if_pos hq, hq, Memory.read_cons, if_neg (by omega), hv]
          exact Memory.read_below h4 (by omega)
        · rw [if_neg hq]
      · rw [if_neg hv, Memory.read_cons]
        by_cases hq : q = o
        · rw [if_pos hq.symm, if_pos hq]
        · rw [if_neg (Ne.symm hq), if_neg hq]
    · rw [if_neg hlt]
      by_cases hk : o = k
      · rw [if_pos hk]
        by_cases hv : v = Config.unwrittenByte
        · rw [if_pos hv]
          by_cases hq : q = o
          · rw [if_pos hq, hv]
            exact Memory.read_below h4 (by omega)
          · rw [if_neg hq, Memory.read_cons, if_neg (by omega)]
        · rw [if_neg hv, Memory.read_cons, Memory.read_cons]
          by_cases hq : q = o
          · rw [if_pos hq.symm, if_pos hq]
          · rw [if_neg (Ne.symm hq), if_neg hq, if_neg (by omega)]
      · rw [if_neg hk, Memory.read_cons, Memory.read_cons, ih h4]
        by_cases hq : q = o
        · rw [if_pos hq, if_pos hq, if_neg (by omega)]
        · rw [if_neg hq, if_neg hq]

/-- A write keeps the canonical form from every lower bound it does not go below. -/
theorem Memory.wfFrom_write {lo len : Nat} {m : Memory} (h : Memory.wfFrom lo len m = true) {o : Nat}
    (hlo : lo ≤ o) (ho : o < len) (v : Byte) : Memory.wfFrom lo len (Memory.write m o v) = true := by
  induction m generalizing lo with
  | nil =>
    unfold Memory.write
    split <;> simp_all [Memory.wfFrom]
  | cons p rest ih =>
    obtain ⟨k, w⟩ := p
    have h' := h
    simp only [Memory.wfFrom, Bool.and_eq_true, decide_eq_true_eq] at h
    obtain ⟨⟨⟨h1, h2⟩, h3⟩, h4⟩ := h
    unfold Memory.write
    split
    · split
      · exact h'
      · simp only [Memory.wfFrom, Bool.and_eq_true, decide_eq_true_eq]
        exact ⟨⟨⟨hlo, ho⟩, ‹_›⟩, ⟨⟨by omega, h2⟩, h3⟩, h4⟩
    · split
      · split
        · exact Memory.wfFrom_mono h4 (by omega)
        · simp only [Memory.wfFrom, Bool.and_eq_true, decide_eq_true_eq]
          exact ⟨⟨⟨hlo, ho⟩, ‹_›⟩, Memory.wfFrom_mono h4 (by omega)⟩
      · simp only [Memory.wfFrom, Bool.and_eq_true, decide_eq_true_eq]
        exact ⟨⟨⟨h1, h2⟩, h3⟩, ih h4 (by omega)⟩

/-- A write inside the block keeps the canonical form. -/
theorem Memory.wf_write {len : Nat} {m : Memory} (h : Memory.wf len m = true) {o : Nat} (ho : o < len)
    (v : Byte) : Memory.wf len (Memory.write m o v) = true :=
  Memory.wfFrom_write h (Nat.zero_le o) ho v

/-- A read after a write on a well-formed block. -/
theorem Memory.read_write {len : Nat} {m : Memory} (h : Memory.wf len m = true) (o : Nat) (v : Byte)
    (q : Nat) : Memory.read (Memory.write m o v) q = if q = o then v else Memory.read m q :=
  Memory.read_write_from h o v q

/-- A write leaves every other cell alone, whatever the form of the list. -/
theorem Memory.read_write_ne (m : Memory) {o q : Nat} (h : q ≠ o) (v : Byte) :
    Memory.read (Memory.write m o v) q = Memory.read m q := by
  induction m with
  | nil =>
    unfold Memory.write
    split <;> simp [Memory.read_cons, Ne.symm h]
  | cons p rest ih =>
    obtain ⟨k, w⟩ := p
    unfold Memory.write
    split
    · split <;> simp [Memory.read_cons, Ne.symm h]
    · split
      · have hk : k ≠ q := by omega
        split <;> simp [Memory.read_cons, Ne.symm h, hk]
      · simp [Memory.read_cons, ih]

/-- Placing a byte sequence gives the canonical form. -/
theorem Memory.wfFrom_ofBytes (o len : Nat) (bs : List Byte) (h : o + bs.length ≤ len) :
    Memory.wfFrom o len (Memory.ofBytes o bs) = true := by
  induction bs generalizing o with
  | nil => rfl
  | cons b bs ih =>
    simp only [List.length_cons] at h
    unfold Memory.ofBytes
    split
    · exact Memory.wfFrom_mono (ih (o + 1) (by omega)) (by omega)
    · simp only [Memory.wfFrom, Bool.and_eq_true, decide_eq_true_eq]
      exact ⟨⟨⟨Nat.le_refl o, by omega⟩, ‹_›⟩, ih (o + 1) (by omega)⟩

/-- Below where a byte sequence was placed, its cells read as unwritten. -/
theorem Memory.read_ofBytes_below (o : Nat) (bs : List Byte) {q : Nat} (h : q < o) :
    Memory.read (Memory.ofBytes o bs) q = Config.unwrittenByte :=
  Memory.read_below (Memory.wfFrom_ofBytes o _ bs (Nat.le_refl _)) h

/-- A placed byte sequence reads back. -/
theorem Memory.read_ofBytes (o : Nat) (bs : List Byte) (i : Nat) :
    Memory.read (Memory.ofBytes o bs) (o + i) = bs.getD i Config.unwrittenByte := by
  induction bs generalizing o i with
  | nil => simp [Memory.ofBytes]
  | cons b bs ih =>
    cases i with
    | zero =>
      unfold Memory.ofBytes
      split
      · rw [Memory.read_ofBytes_below _ _ (by omega)]
        simp_all
      · simp [Memory.read_cons]
    | succ i =>
      have hi : o + (i + 1) = (o + 1) + i := by omega
      unfold Memory.ofBytes
      split
      · rw [hi, ih]
        simp
      · rw [Memory.read_cons, if_neg (by omega), hi, ih]
        simp

/-- Two lists in canonical form that read alike at every offset are equal. -/
theorem Memory.eq_of_read_eq {lo len len' : Nat} {m m' : Memory} (h : Memory.wfFrom lo len m = true)
    (h' : Memory.wfFrom lo len' m' = true) (hr : ∀ o, Memory.read m o = Memory.read m' o) : m = m' := by
  induction m generalizing lo m' with
  | nil =>
    cases m' with
    | nil => rfl
    | cons p rest =>
      obtain ⟨k, v⟩ := p
      have := hr k
      simp only [Memory.wfFrom, Bool.and_eq_true, decide_eq_true_eq] at h'
      rw [Memory.read_cons, if_pos rfl] at this
      exact absurd this.symm h'.1.2
  | cons p rest ih =>
    obtain ⟨k, v⟩ := p
    have hw := h
    simp only [Memory.wfFrom, Bool.and_eq_true, decide_eq_true_eq] at h
    cases m' with
    | nil =>
      have := hr k
      rw [Memory.read_cons, if_pos rfl] at this
      exact absurd this h.1.2
    | cons p' rest' =>
      obtain ⟨k', v'⟩ := p'
      have hw' := h'
      simp only [Memory.wfFrom, Bool.and_eq_true, decide_eq_true_eq] at h'
      have hkk : k = k' := by
        rcases Nat.lt_trichotomy k k' with hlt | heq | hgt
        · have := hr k
          rw [Memory.read_cons, if_pos rfl, Memory.read_cons, if_neg (by omega),
            Memory.read_below h'.2 (by omega)] at this
          exact absurd this h.1.2
        · exact heq
        · have := hr k'
          rw [Memory.read_cons, if_neg (by omega), Memory.read_below h.2 (by omega), Memory.read_cons,
            if_pos rfl] at this
          exact absurd this.symm h'.1.2
      subst hkk
      have hv : v = v' := by simpa [Memory.read_cons] using hr k
      subst hv
      have hrest : rest = rest' := by
        refine ih h.2 h'.2 fun o => ?_
        by_cases ho : k = o
        · rw [Memory.read_below h.2 (by omega), Memory.read_below h'.2 (by omega)]
        · have := hr o
          rwa [Memory.read_cons, if_neg ho, Memory.read_cons, if_neg ho] at this
      rw [hrest]

end Sys2Proof.Machine
end

