-- ==== Sys2Proof/Laws/State.lean ====
section
/-! SUPPORT. One lemma per field and update of State, true by unfolding, so that no proof unfolds a
record update. -/

namespace Sys2Proof.Machine

@[simp] theorem State.setPc_pc (s : State) (v : Word) : (s.setPc v).pc = v := rfl
@[simp] theorem State.setPc_ac (s : State) (v : Word) : (s.setPc v).ac = s.ac := rfl
@[simp] theorem State.setPc_x (s : State) (v : Word) : (s.setPc v).x = s.x := rfl
@[simp] theorem State.setPc_y (s : State) (v : Word) : (s.setPc v).y = s.y := rfl
@[simp] theorem State.setPc_sp (s : State) (v : Word) : (s.setPc v).sp = s.sp := rfl
@[simp] theorem State.setPc_sr (s : State) (v : Word) : (s.setPc v).sr = s.sr := rfl
@[simp] theorem State.setPc_ram (s : State) (v : Word) : (s.setPc v).ram = s.ram := rfl
@[simp] theorem State.setPc_cart (s : State) (v : Word) : (s.setPc v).cart = s.cart := rfl
@[simp] theorem State.setPc_cycles (s : State) (v : Word) : (s.setPc v).cycles = s.cycles := rfl

@[simp] theorem State.setAc_pc (s : State) (v : Byte) : (s.setAc v).pc = s.pc := rfl
@[simp] theorem State.setAc_ac (s : State) (v : Byte) : (s.setAc v).ac = v := rfl
@[simp] theorem State.setAc_x (s : State) (v : Byte) : (s.setAc v).x = s.x := rfl
@[simp] theorem State.setAc_y (s : State) (v : Byte) : (s.setAc v).y = s.y := rfl
@[simp] theorem State.setAc_sp (s : State) (v : Byte) : (s.setAc v).sp = s.sp := rfl
@[simp] theorem State.setAc_sr (s : State) (v : Byte) : (s.setAc v).sr = s.sr := rfl
@[simp] theorem State.setAc_ram (s : State) (v : Byte) : (s.setAc v).ram = s.ram := rfl
@[simp] theorem State.setAc_cart (s : State) (v : Byte) : (s.setAc v).cart = s.cart := rfl
@[simp] theorem State.setAc_cycles (s : State) (v : Byte) : (s.setAc v).cycles = s.cycles := rfl

@[simp] theorem State.setX_pc (s : State) (v : Byte) : (s.setX v).pc = s.pc := rfl
@[simp] theorem State.setX_ac (s : State) (v : Byte) : (s.setX v).ac = s.ac := rfl
@[simp] theorem State.setX_x (s : State) (v : Byte) : (s.setX v).x = v := rfl
@[simp] theorem State.setX_y (s : State) (v : Byte) : (s.setX v).y = s.y := rfl
@[simp] theorem State.setX_sp (s : State) (v : Byte) : (s.setX v).sp = s.sp := rfl
@[simp] theorem State.setX_sr (s : State) (v : Byte) : (s.setX v).sr = s.sr := rfl
@[simp] theorem State.setX_ram (s : State) (v : Byte) : (s.setX v).ram = s.ram := rfl
@[simp] theorem State.setX_cart (s : State) (v : Byte) : (s.setX v).cart = s.cart := rfl
@[simp] theorem State.setX_cycles (s : State) (v : Byte) : (s.setX v).cycles = s.cycles := rfl

@[simp] theorem State.setY_pc (s : State) (v : Byte) : (s.setY v).pc = s.pc := rfl
@[simp] theorem State.setY_ac (s : State) (v : Byte) : (s.setY v).ac = s.ac := rfl
@[simp] theorem State.setY_x (s : State) (v : Byte) : (s.setY v).x = s.x := rfl
@[simp] theorem State.setY_y (s : State) (v : Byte) : (s.setY v).y = v := rfl
@[simp] theorem State.setY_sp (s : State) (v : Byte) : (s.setY v).sp = s.sp := rfl
@[simp] theorem State.setY_sr (s : State) (v : Byte) : (s.setY v).sr = s.sr := rfl
@[simp] theorem State.setY_ram (s : State) (v : Byte) : (s.setY v).ram = s.ram := rfl
@[simp] theorem State.setY_cart (s : State) (v : Byte) : (s.setY v).cart = s.cart := rfl
@[simp] theorem State.setY_cycles (s : State) (v : Byte) : (s.setY v).cycles = s.cycles := rfl

@[simp] theorem State.setSp_pc (s : State) (v : Byte) : (s.setSp v).pc = s.pc := rfl
@[simp] theorem State.setSp_ac (s : State) (v : Byte) : (s.setSp v).ac = s.ac := rfl
@[simp] theorem State.setSp_x (s : State) (v : Byte) : (s.setSp v).x = s.x := rfl
@[simp] theorem State.setSp_y (s : State) (v : Byte) : (s.setSp v).y = s.y := rfl
@[simp] theorem State.setSp_sp (s : State) (v : Byte) : (s.setSp v).sp = v := rfl
@[simp] theorem State.setSp_sr (s : State) (v : Byte) : (s.setSp v).sr = s.sr := rfl
@[simp] theorem State.setSp_ram (s : State) (v : Byte) : (s.setSp v).ram = s.ram := rfl
@[simp] theorem State.setSp_cart (s : State) (v : Byte) : (s.setSp v).cart = s.cart := rfl
@[simp] theorem State.setSp_cycles (s : State) (v : Byte) : (s.setSp v).cycles = s.cycles := rfl

@[simp] theorem State.setSr_pc (s : State) (v : Byte) : (s.setSr v).pc = s.pc := rfl
@[simp] theorem State.setSr_ac (s : State) (v : Byte) : (s.setSr v).ac = s.ac := rfl
@[simp] theorem State.setSr_x (s : State) (v : Byte) : (s.setSr v).x = s.x := rfl
@[simp] theorem State.setSr_y (s : State) (v : Byte) : (s.setSr v).y = s.y := rfl
@[simp] theorem State.setSr_sp (s : State) (v : Byte) : (s.setSr v).sp = s.sp := rfl
@[simp] theorem State.setSr_sr (s : State) (v : Byte) : (s.setSr v).sr = v := rfl
@[simp] theorem State.setSr_ram (s : State) (v : Byte) : (s.setSr v).ram = s.ram := rfl
@[simp] theorem State.setSr_cart (s : State) (v : Byte) : (s.setSr v).cart = s.cart := rfl
@[simp] theorem State.setSr_cycles (s : State) (v : Byte) : (s.setSr v).cycles = s.cycles := rfl

@[simp] theorem State.setRam_pc (s : State) (v : Memory) : (s.setRam v).pc = s.pc := rfl
@[simp] theorem State.setRam_ac (s : State) (v : Memory) : (s.setRam v).ac = s.ac := rfl
@[simp] theorem State.setRam_x (s : State) (v : Memory) : (s.setRam v).x = s.x := rfl
@[simp] theorem State.setRam_y (s : State) (v : Memory) : (s.setRam v).y = s.y := rfl
@[simp] theorem State.setRam_sp (s : State) (v : Memory) : (s.setRam v).sp = s.sp := rfl
@[simp] theorem State.setRam_sr (s : State) (v : Memory) : (s.setRam v).sr = s.sr := rfl
@[simp] theorem State.setRam_ram (s : State) (v : Memory) : (s.setRam v).ram = v := rfl
@[simp] theorem State.setRam_cart (s : State) (v : Memory) : (s.setRam v).cart = s.cart := rfl
@[simp] theorem State.setRam_cycles (s : State) (v : Memory) : (s.setRam v).cycles = s.cycles := rfl

@[simp] theorem State.setCycles_pc (s : State) (v : Nat) : (s.setCycles v).pc = s.pc := rfl
@[simp] theorem State.setCycles_ac (s : State) (v : Nat) : (s.setCycles v).ac = s.ac := rfl
@[simp] theorem State.setCycles_x (s : State) (v : Nat) : (s.setCycles v).x = s.x := rfl
@[simp] theorem State.setCycles_y (s : State) (v : Nat) : (s.setCycles v).y = s.y := rfl
@[simp] theorem State.setCycles_sp (s : State) (v : Nat) : (s.setCycles v).sp = s.sp := rfl
@[simp] theorem State.setCycles_sr (s : State) (v : Nat) : (s.setCycles v).sr = s.sr := rfl
@[simp] theorem State.setCycles_ram (s : State) (v : Nat) : (s.setCycles v).ram = s.ram := rfl
@[simp] theorem State.setCycles_cart (s : State) (v : Nat) : (s.setCycles v).cart = s.cart := rfl
@[simp] theorem State.setCycles_cycles (s : State) (v : Nat) : (s.setCycles v).cycles = v := rfl

@[simp] theorem State.setPrgRam_pc (s : State) (v : Memory) : (s.setPrgRam v).pc = s.pc := rfl
@[simp] theorem State.setPrgRam_ac (s : State) (v : Memory) : (s.setPrgRam v).ac = s.ac := rfl
@[simp] theorem State.setPrgRam_x (s : State) (v : Memory) : (s.setPrgRam v).x = s.x := rfl
@[simp] theorem State.setPrgRam_y (s : State) (v : Memory) : (s.setPrgRam v).y = s.y := rfl
@[simp] theorem State.setPrgRam_sp (s : State) (v : Memory) : (s.setPrgRam v).sp = s.sp := rfl
@[simp] theorem State.setPrgRam_sr (s : State) (v : Memory) : (s.setPrgRam v).sr = s.sr := rfl
@[simp] theorem State.setPrgRam_ram (s : State) (v : Memory) : (s.setPrgRam v).ram = s.ram := rfl
@[simp] theorem State.setPrgRam_cart (s : State) (v : Memory) : (s.setPrgRam v).cart = { s.cart with prgRam := some v } := rfl
@[simp] theorem State.setPrgRam_cycles (s : State) (v : Memory) : (s.setPrgRam v).cycles = s.cycles := rfl

@[simp] theorem advance_pc (mn : Mnemonic) (md : AddressingMode) (e : Nat) (s : State) :
    (advance mn md e s).pc = s.pc + BitVec.ofNat 16 md.length := rfl
@[simp] theorem advance_ac (mn : Mnemonic) (md : AddressingMode) (e : Nat) (s : State) :
    (advance mn md e s).ac = s.ac := rfl
@[simp] theorem advance_x (mn : Mnemonic) (md : AddressingMode) (e : Nat) (s : State) :
    (advance mn md e s).x = s.x := rfl
@[simp] theorem advance_y (mn : Mnemonic) (md : AddressingMode) (e : Nat) (s : State) :
    (advance mn md e s).y = s.y := rfl
@[simp] theorem advance_sp (mn : Mnemonic) (md : AddressingMode) (e : Nat) (s : State) :
    (advance mn md e s).sp = s.sp := rfl
@[simp] theorem advance_sr (mn : Mnemonic) (md : AddressingMode) (e : Nat) (s : State) :
    (advance mn md e s).sr = s.sr := rfl
@[simp] theorem advance_ram (mn : Mnemonic) (md : AddressingMode) (e : Nat) (s : State) :
    (advance mn md e s).ram = s.ram := rfl
@[simp] theorem advance_cart (mn : Mnemonic) (md : AddressingMode) (e : Nat) (s : State) :
    (advance mn md e s).cart = s.cart := rfl
@[simp] theorem advance_cycles (mn : Mnemonic) (md : AddressingMode) (e : Nat) (s : State) :
    (advance mn md e s).cycles = baseCycles mn md + e := rfl

@[simp] theorem transfer_pc (mn : Mnemonic) (md : AddressingMode) (e : Nat) (w : Word) (s : State) :
    (transfer mn md e w s).pc = w := rfl
@[simp] theorem transfer_ac (mn : Mnemonic) (md : AddressingMode) (e : Nat) (w : Word) (s : State) :
    (transfer mn md e w s).ac = s.ac := rfl
@[simp] theorem transfer_x (mn : Mnemonic) (md : AddressingMode) (e : Nat) (w : Word) (s : State) :
    (transfer mn md e w s).x = s.x := rfl
@[simp] theorem transfer_y (mn : Mnemonic) (md : AddressingMode) (e : Nat) (w : Word) (s : State) :
    (transfer mn md e w s).y = s.y := rfl
@[simp] theorem transfer_sp (mn : Mnemonic) (md : AddressingMode) (e : Nat) (w : Word) (s : State) :
    (transfer mn md e w s).sp = s.sp := rfl
@[simp] theorem transfer_sr (mn : Mnemonic) (md : AddressingMode) (e : Nat) (w : Word) (s : State) :
    (transfer mn md e w s).sr = s.sr := rfl
@[simp] theorem transfer_ram (mn : Mnemonic) (md : AddressingMode) (e : Nat) (w : Word) (s : State) :
    (transfer mn md e w s).ram = s.ram := rfl
@[simp] theorem transfer_cart (mn : Mnemonic) (md : AddressingMode) (e : Nat) (w : Word) (s : State) :
    (transfer mn md e w s).cart = s.cart := rfl
@[simp] theorem transfer_cycles (mn : Mnemonic) (md : AddressingMode) (e : Nat) (w : Word) (s : State) :
    (transfer mn md e w s).cycles = baseCycles mn md + e := rfl

@[simp] theorem pulled_pc (s : State) : (pulled s).pc = s.pc := rfl
@[simp] theorem pulled_ac (s : State) : (pulled s).ac = s.ac := rfl
@[simp] theorem pulled_x (s : State) : (pulled s).x = s.x := rfl
@[simp] theorem pulled_y (s : State) : (pulled s).y = s.y := rfl
@[simp] theorem pulled_sp (s : State) : (pulled s).sp = s.sp + 1 := rfl
@[simp] theorem pulled_sr (s : State) : (pulled s).sr = s.sr := rfl
@[simp] theorem pulled_ram (s : State) : (pulled s).ram = s.ram := rfl
@[simp] theorem pulled_cart (s : State) : (pulled s).cart = s.cart := rfl
@[simp] theorem pulled_cycles (s : State) : (pulled s).cycles = s.cycles := rfl

end Sys2Proof.Machine
end

