-- ==== Sys2Proof/Laws/Ops.lean ====
section
/-! SUPPORT. The laws of the bus and the stack: what each access answers in each part of the address map,
everything a store can do, what a store leaves alone, and that every operation keeps the canonical form. -/

namespace Sys2Proof.Machine

/-! ### Reads, by region -/

/-- The three cartridge constants as numbers (R7). -/
theorem prgRomBase_eq : Config.prgRomBase = 0x8000 := by rw [Config.prgRomBase]

theorem prgRamBase_eq : Config.prgRamBase = 0x6000 := by rw [Config.prgRamBase]

theorem prgRamSize_eq : Config.prgRamSize = 0x2000 := by rw [Config.prgRamSize]

theorem prgRamOffset_eq (a : Word) : prgRamOffset a = a.toNat - 0x6000 := by
  rw [← prgRamBase_eq]
  rfl

theorem romOffset_eq (c : Cartridge) (a : Word) : c.romOffset a = (a.toNat - 0x8000) % c.prgLen := by
  rw [← prgRomBase_eq]
  rfl

theorem regionOf_ram {a : Word} (h : a.toNat < 0x2000) : regionOf a = .ram := by
  rw [regionOf, if_pos h]

theorem regionOf_ppu {a : Word} (h : 0x2000 ≤ a.toNat) (h' : a.toNat < 0x4000) : regionOf a = .ppu := by
  rw [regionOf, if_neg (by omega), if_pos h']

theorem regionOf_cart {a : Word} (h : 0x4000 ≤ a.toNat) : regionOf a = .cart := by
  rw [regionOf, if_neg (by omega), if_neg (by omega)]

theorem window_rom {a : Word} (h : 0x8000 ≤ a.toNat) (c : Cartridge) : c.window a = .rom := by
  rw [Cartridge.window, prgRomBase_eq, if_pos h]

theorem window_prgRam {a : Word} (h : 0x6000 ≤ a.toNat) (h' : a.toNat < 0x8000) {c : Cartridge} {m : Memory}
    (hm : c.prgRam = some m) : c.window a = .prgRam m := by
  have h1 : ¬ Config.prgRomBase ≤ a.toNat := by rw [prgRomBase_eq]; omega
  have h2 : Config.prgRamBase ≤ a.toNat ∧ a.toNat < Config.prgRamBase + Config.prgRamSize := by
    rw [prgRamBase_eq, prgRamSize_eq]; omega
  rw [Cartridge.window, if_neg h1, hm]
  exact if_pos h2

theorem window_unbacked {a : Word} (h' : a.toNat < 0x8000) {c : Cartridge}
    (hm : a.toNat < 0x6000 ∨ c.prgRam = none) : c.window a = .unbacked := by
  have h1 : ¬ Config.prgRomBase ≤ a.toNat := by rw [prgRomBase_eq]; omega
  rw [Cartridge.window, if_neg h1]
  rcases hm with hm | hm
  · have h2 : ¬ (Config.prgRamBase ≤ a.toNat ∧ a.toNat < Config.prgRamBase + Config.prgRamSize) := by
      rw [prgRamBase_eq, prgRamSize_eq]; omega
    cases c.prgRam with
    | none => rfl
    | some m => exact if_neg h2
  · rw [hm]

/-- A read of internal RAM never fails (R92, R95). -/
theorem memRead1_ram {a : Word} (h : a.toNat < 0x2000) (s : State) :
    memRead1 a s = .ok (Memory.read s.ram (a.toNat % 0x800)) := by
  have h2 : a.toNat % 2048 < 2048 := Nat.mod_lt _ (by decide)
  simp [memRead1, regionOf_ram h, Block.fetchU8, ramOffset, Config.ramSize, atBus, h2]

/-- A read of the PPU region is 0 (R93). -/
theorem memRead1_ppu {a : Word} (h : 0x2000 ≤ a.toNat) (h' : a.toNat < 0x4000) (s : State) :
    memRead1 a s = .ok 0x00 := by
  simp [memRead1, regionOf_ppu h h', Config.ppuReadValue]

/-- A read of the ROM window (R81). -/
theorem memRead1_rom {a : Word} (h : 0x8000 ≤ a.toNat) (s : State) :
    memRead1 a s = if s.cart.prgLen = 0 then .error (.addressOutOfRange a.toNat .one)
      else .ok (Memory.read s.cart.prgRom ((a.toNat - 0x8000) % s.cart.prgLen)) := by
  simp only [memRead1, regionOf_cart (show 0x4000 ≤ a.toNat by omega), window_rom h]
  split
  · rfl
  · have h2 : (a.toNat - Config.prgRomBase) % s.cart.prgLen < s.cart.prgLen :=
      Nat.mod_lt _ (by omega)
    rw [prgRomBase_eq] at h2
    rw [romOffset_eq, Block.fetchU8, if_pos h2]
    rfl

/-- A read of PRG-RAM when present (R83). -/
theorem memRead1_prgRam {a : Word} (h : 0x6000 ≤ a.toNat) (h' : a.toNat < 0x8000) {s : State} {m : Memory}
    (hm : s.cart.prgRam = some m) : memRead1 a s = .ok (Memory.read m (a.toNat - 0x6000)) := by
  have h2 : a.toNat - 0x6000 < Config.prgRamSize := by rw [prgRamSize_eq]; omega
  simp only [memRead1, regionOf_cart (show 0x4000 ≤ a.toNat by omega), window_prgRam h h' hm]
  rw [prgRamOffset_eq, Block.fetchU8, if_pos h2]
  rfl

/-- A read of an unbacked address (R84). -/
theorem memRead1_unbacked {a : Word} (h : 0x4000 ≤ a.toNat) (h' : a.toNat < 0x8000) {s : State}
    (hm : a.toNat < 0x6000 ∨ s.cart.prgRam = none) :
    memRead1 a s = .error (.addressOutOfRange a.toNat .one) := by
  simp only [memRead1, regionOf_cart h, window_unbacked h' hm]

/-! ### The 16-bit accesses -/

theorem memRead2_ram {a : Word} (h : a.toNat < 0x2000) (s : State) :
    memRead2 a s = if a.toNat % 0x800 + 1 < 0x800 then
        .ok (wordOf (Memory.read s.ram (a.toNat % 0x800 + 1)) (Memory.read s.ram (a.toNat % 0x800)))
      else .error (.addressOutOfRange a.toNat .two) := by
  simp only [memRead2, regionOf_ram h, Block.fetchU16]
  by_cases h1 : ramOffset a + 1 < Config.ramSize
  · rw [if_pos h1, if_pos (show a.toNat % 0x800 + 1 < 0x800 from h1)]; rfl
  · rw [if_neg h1, if_neg (show ¬ (a.toNat % 0x800 + 1 < 0x800) from h1)]; rfl

theorem memRead2_ppu {a : Word} (h : 0x2000 ≤ a.toNat) (h' : a.toNat < 0x4000) (s : State) :
    memRead2 a s = .ok 0 := by
  rw [memRead2, regionOf_ppu h h']; rfl

theorem memRead2_rom {a : Word} (h : 0x8000 ≤ a.toNat) (s : State) :
    memRead2 a s = if s.cart.prgLen = 0 ∨ a = 0xFFFF then .error (.addressOutOfRange a.toNat .two)
      else if (a.toNat - 0x8000) % s.cart.prgLen + 1 < s.cart.prgLen then
        .ok (wordOf (Memory.read s.cart.prgRom ((a.toNat - 0x8000) % s.cart.prgLen + 1))
          (Memory.read s.cart.prgRom ((a.toNat - 0x8000) % s.cart.prgLen)))
      else .error (.addressOutOfRange a.toNat .two) := by
  simp only [memRead2, regionOf_cart (show 0x4000 ≤ a.toNat by omega), window_rom h, romOffset_eq,
    Block.fetchU16]
  split
  · rfl
  · split <;> rfl

theorem memRead2_prgRam {a : Word} (h : 0x6000 ≤ a.toNat) (h' : a.toNat < 0x8000) {s : State}
    {m : Memory} (hm : s.cart.prgRam = some m) :
    memRead2 a s = if a.toNat < 0x7FFF then
        .ok (wordOf (Memory.read m (a.toNat - 0x6000 + 1)) (Memory.read m (a.toNat - 0x6000)))
      else .error (.addressOutOfRange a.toNat .two) := by
  simp only [memRead2, regionOf_cart (show 0x4000 ≤ a.toNat by omega), window_prgRam h h' hm,
    prgRamOffset_eq, Block.fetchU16, prgRamSize_eq]
  by_cases h1 : a.toNat < 0x7FFF
  · rw [if_pos h1, if_pos (by omega)]; rfl
  · rw [if_neg h1, if_neg (by omega)]; rfl

theorem memRead2_unbacked {a : Word} (h : 0x4000 ≤ a.toNat) (h' : a.toNat < 0x8000) {s : State}
    (hm : a.toNat < 0x6000 ∨ s.cart.prgRam = none) :
    memRead2 a s = .error (.addressOutOfRange a.toNat .two) := by
  simp only [memRead2, regionOf_cart h, window_unbacked h' hm]

theorem memWrite2_ram {a : Word} (h : a.toNat < 0x2000) (w : Word) (s : State) :
    memWrite2 a w s = if a.toNat % 0x800 + 1 < 0x800 then
        .ok (s.setRam (Memory.write (Memory.write s.ram (a.toNat % 0x800) (lowByte w))
          (a.toNat % 0x800 + 1) (highByte w)))
      else .error (.addressOutOfRange a.toNat .two) := by
  simp only [memWrite2, regionOf_ram h, Block.storeU16]
  by_cases h1 : ramOffset a + 1 < Config.ramSize
  · rw [if_pos h1, if_pos (show a.toNat % 0x800 + 1 < 0x800 from h1)]; rfl
  · rw [if_neg h1, if_neg (show ¬ (a.toNat % 0x800 + 1 < 0x800) from h1)]; rfl

theorem memWrite2_prgRam {a : Word} (h : 0x6000 ≤ a.toNat) (h' : a.toNat < 0x8000) {s : State}
    {m : Memory} (hm : s.cart.prgRam = some m) (w : Word) :
    memWrite2 a w s = if a.toNat < 0x7FFF then
        .ok (s.setPrgRam (Memory.write (Memory.write m (a.toNat - 0x6000) (lowByte w))
          (a.toNat - 0x6000 + 1) (highByte w)))
      else .error (.addressOutOfRange a.toNat .two) := by
  simp only [memWrite2, regionOf_cart (show 0x4000 ≤ a.toNat by omega), window_prgRam h h' hm,
    prgRamOffset_eq, Block.storeU16, prgRamSize_eq]
  by_cases h1 : a.toNat < 0x7FFF
  · rw [if_pos h1, if_pos (by omega)]; rfl
  · rw [if_neg h1, if_neg (by omega)]; rfl

theorem succ_toNat {a : Word} (h : a ≠ 0xFFFF) : (a + 1).toNat = a.toNat + 1 := by
  have : a.toNat ≠ 0xFFFF := fun h' => h (BitVec.eq_of_toNat_eq h')
  rw [BitVec.toNat_add, show (1 : Word).toNat = 1 from rfl]
  omega

/-- The part of the address map an address lies in. -/
theorem address_cases (a : Word) (s : State) :
    a.toNat < 0x2000 ∨ (0x2000 ≤ a.toNat ∧ a.toNat < 0x4000) ∨ 0x8000 ≤ a.toNat ∨
      (0x6000 ≤ a.toNat ∧ a.toNat < 0x8000 ∧ ∃ m, s.cart.prgRam = some m) ∨
      (0x4000 ≤ a.toNat ∧ a.toNat < 0x8000 ∧ (a.toNat < 0x6000 ∨ s.cart.prgRam = none)) := by
  cases h : s.cart.prgRam with
  | none => simp only [or_true, and_true, reduceCtorEq, exists_false, and_false, false_or]; omega
  | some m =>
    simp only [Option.some.injEq, exists_eq', and_true, reduceCtorEq, or_false]
    omega

/-! ### Writes -/

theorem memWrite1_ram {a : Word} (h : a.toNat < 0x2000) (v : Byte) (s : State) :
    memWrite1 a v s = .ok (s.setRam (Memory.write s.ram (a.toNat % 0x800) v)) := by
  have h2 : a.toNat % 2048 < 2048 := Nat.mod_lt _ (by decide)
  simp [memWrite1, regionOf_ram h, Block.storeU8, ramOffset, Config.ramSize, atBus, h2, storedRam]

theorem memWrite1_ppu {a : Word} (h : 0x2000 ≤ a.toNat) (h' : a.toNat < 0x4000) (v : Byte) (s : State) :
    memWrite1 a v s = .ok s := by
  simp [memWrite1, regionOf_ppu h h']

theorem memWrite1_rom {a : Word} (h : 0x8000 ≤ a.toNat) (v : Byte) (s : State) :
    memWrite1 a v s = .ok s := by
  simp only [memWrite1, regionOf_cart (show 0x4000 ≤ a.toNat by omega), window_rom h]

theorem memWrite1_prgRam {a : Word} (h : 0x6000 ≤ a.toNat) (h' : a.toNat < 0x8000) {s : State} {m : Memory}
    (hm : s.cart.prgRam = some m) (v : Byte) :
    memWrite1 a v s = .ok (s.setPrgRam (Memory.write m (a.toNat - 0x6000) v)) := by
  have h2 : a.toNat - 0x6000 < Config.prgRamSize := by rw [prgRamSize_eq]; omega
  simp only [memWrite1, regionOf_cart (show 0x4000 ≤ a.toNat by omega), window_prgRam h h' hm]
  rw [prgRamOffset_eq, Block.storeU8, if_pos h2]
  rfl

theorem memWrite1_unbacked {a : Word} (h : 0x4000 ≤ a.toNat) (h' : a.toNat < 0x8000) {s : State}
    (hm : a.toNat < 0x6000 ∨ s.cart.prgRam = none) (v : Byte) :
    memWrite1 a v s = .error (.addressOutOfRange a.toNat .one) := by
  simp only [memWrite1, regionOf_cart h, window_unbacked h' hm]

/-- Everything a byte store that answers can have done: a RAM cell, nothing, or a PRG-RAM cell (R97). -/
theorem memWrite1_cases {a : Word} {v : Byte} {s t : State} (h : memWrite1 a v s = .ok t) :
    (a.toNat < 0x2000 ∧ t = s.setRam (Memory.write s.ram (a.toNat % 0x800) v)) ∨
      (¬ storesAt a s ∧ t = s) ∨
      ∃ m, 0x6000 ≤ a.toNat ∧ a.toNat < 0x8000 ∧ s.cart.prgRam = some m ∧
        t = s.setPrgRam (Memory.write m (a.toNat - 0x6000) v) := by
  rcases address_cases a s with hr | ⟨hp, hp'⟩ | hr | ⟨h1, h2, m, hm⟩ | ⟨h1, h2, hm⟩
  · rw [memWrite1_ram hr, Except.ok.injEq] at h
    exact .inl ⟨hr, h.symm⟩
  · rw [memWrite1_ppu hp hp', Except.ok.injEq] at h
    refine .inr (.inl ⟨?_, h.symm⟩)
    rintro (h | ⟨h, _⟩) <;> omega
  · rw [memWrite1_rom hr, Except.ok.injEq] at h
    refine .inr (.inl ⟨?_, h.symm⟩)
    rintro (h | ⟨_, h, _⟩) <;> omega
  · rw [memWrite1_prgRam h1 h2 hm, Except.ok.injEq] at h
    exact .inr (.inr ⟨m, h1, h2, hm, h.symm⟩)
  · rw [memWrite1_unbacked h1 h2 hm] at h
    cases h

/-- Where a byte can be read, one can be stored or dropped (R211). -/
theorem memWrite1_of_read {a : Word} {b : Byte} {s : State} (h : memRead1 a s = .ok b) (v : Byte) :
    ∃ t, memWrite1 a v s = .ok t := by
  rcases address_cases a s with hr | ⟨hp, hp'⟩ | hr | ⟨h1, h2, m, hm⟩ | ⟨h1, h2, hm⟩
  · exact ⟨_, memWrite1_ram hr v s⟩
  · exact ⟨_, memWrite1_ppu hp hp' v s⟩
  · exact ⟨_, memWrite1_rom hr v s⟩
  · exact ⟨_, memWrite1_prgRam h1 h2 hm v⟩
  · rw [memRead1_unbacked h1 h2 hm] at h
    cases h

/-- A byte read fails only at an address with no cell behind it, which it names; the 16-bit read at that
address fails too (R84, R95, R96). -/
theorem memRead1_error {a : Word} {s : State} {f : Fault} (h : memRead1 a s = .error f) :
    f = .addressOutOfRange a.toNat .one ∧ memRead2 a s = .error (.addressOutOfRange a.toNat .two) := by
  rcases address_cases a s with h1 | ⟨h1, h2⟩ | h1 | ⟨h1, h2, m, hm⟩ | ⟨h1, h2, hm⟩
  · rw [memRead1_ram h1] at h; cases h
  · rw [memRead1_ppu h1 h2] at h; cases h
  · rw [memRead1_rom h1] at h
    split at h
    · next hz => rw [memRead2_rom h1, if_pos (.inl hz)]; cases h; exact ⟨rfl, rfl⟩
    · cases h
  · rw [memRead1_prgRam h1 h2 hm] at h; cases h
  · rw [memRead1_unbacked h1 h2 hm] at h
    rw [memRead2_unbacked h1 h2 hm]
    cases h
    exact ⟨rfl, rfl⟩

/-- A byte read depends on RAM and the cartridge alone. -/
theorem memRead1_congr {s t : State} (hr : t.ram = s.ram) (hc : t.cart = s.cart) (b : Word) :
    memRead1 b t = memRead1 b s := by
  simp only [memRead1, hr, hc]

theorem memRead2_congr {s t : State} (hr : t.ram = s.ram) (hc : t.cart = s.cart) (b : Word) :
    memRead2 b t = memRead2 b s := by
  simp only [memRead2, hr, hc]

/-- The registers, the count, ROM, CHR and the flags of the cartridge outlive a byte store. -/
theorem memWrite1_keeps {a : Word} {v : Byte} {s t : State} (h : memWrite1 a v s = .ok t) :
    t = { s with ram := t.ram, cart := { s.cart with prgRam := t.cart.prgRam } } := by
  rcases memWrite1_cases h with ⟨_, rfl⟩ | ⟨_, rfl⟩ | ⟨m, _, _, _, rfl⟩ <;> rfl

/-- After a store to RAM: what each byte reads as. -/
theorem memRead1_setRam_write (a b : Word) (ha : a.toNat < 0x2000) (v : Byte) (s : State)
    (hb : ¬ sameCell a b) :
    memRead1 b (s.setRam (Memory.write s.ram (a.toNat % 0x800) v)) = memRead1 b s := by
  by_cases hr : b.toNat < 0x2000
  · rw [memRead1_ram hr, memRead1_ram hr, State.setRam_ram, Memory.read_write_ne]
    intro h
    exact hb (.inr ⟨ha, hr, h.symm⟩)
  · have hb' : regionOf b ≠ .ram := by
      rw [regionOf, if_neg hr]
      split <;> simp
    unfold memRead1
    split
    · contradiction
    · rfl
    · rfl

/-- After a store to PRG-RAM: what each other byte reads as. -/
theorem memRead1_setPrgRam_write {a b : Word} {s : State} {m : Memory} (ha : 0x6000 ≤ a.toNat)
    (hm : s.cart.prgRam = some m) (v : Byte) (hb : ¬ sameCell a b) :
    memRead1 b (s.setPrgRam (Memory.write m (a.toNat - 0x6000) v)) = memRead1 b s := by
  rcases address_cases b s with hr | ⟨hp, hp'⟩ | hr | ⟨h1, h2, m', hm'⟩ | ⟨h1, h2, hm'⟩
  · rw [memRead1_ram hr, memRead1_ram hr]; rfl
  · rw [memRead1_ppu hp hp', memRead1_ppu hp hp']
  · rw [memRead1_rom hr, memRead1_rom hr]; rfl
  · rw [hm, Option.some.injEq] at hm'
    subst hm'
    rw [memRead1_prgRam h1 h2 (s := s.setPrgRam _) rfl, memRead1_prgRam h1 h2 hm, Memory.read_write_ne]
    intro h
    exact hb (.inl (BitVec.eq_of_toNat_eq (by omega)))
  · rw [hm] at hm'
    have hm'' : b.toNat < 0x6000 := hm'.resolve_right (by simp)
    rw [memRead1_unbacked h1 h2 (.inl hm''), memRead1_unbacked h1 h2 (.inl hm'')]

/-- The whole effect of a byte store that answers, in terms of byte reads (R97, R100). -/
theorem memWrite1_stored {a : Word} {v : Byte} {s t : State} (h : memWrite1 a v s = .ok t) :
    storedByte a v s t := by
  rcases memWrite1_cases h with ⟨ha, rfl⟩ | ⟨hd, rfl⟩ | ⟨m, h1, h2, hm, rfl⟩
  · refine ⟨fun b hb => memRead1_setRam_write a b ha v s hb, fun hw _ b hb => ?_,
      fun hn => absurd (.inl ha) hn⟩
    have hr : b.toNat < 0x2000 ∧ b.toNat % 0x800 = a.toNat % 0x800 := by
      rcases hb with rfl | ⟨_, h, h'⟩
      · exact ⟨ha, rfl⟩
      · exact ⟨h, h'.symm⟩
    simp only [State.wf, Bool.and_eq_true] at hw
    rw [memRead1_ram hr.1, State.setRam_ram, hr.2, Memory.read_write hw.1, if_pos rfl]
  · exact ⟨fun _ _ => rfl, fun _ hs => absurd hs hd, fun _ _ => rfl⟩
  · refine ⟨fun b hb => memRead1_setPrgRam_write h1 hm v hb, fun hw _ b hb => ?_,
      fun hn => absurd (.inr ⟨h1, h2, by simp [hm]⟩) hn⟩
    have hab : b = a := by
      rcases hb with rfl | ⟨h, _⟩
      · rfl
      · omega
    subst hab
    simp only [State.wf, Cartridge.wf, hm, Option.all_some, Bool.and_eq_true] at hw
    rw [memRead1_prgRam h1 h2 (s := s.setPrgRam _) rfl, Memory.read_write hw.2.1.1.2, if_pos rfl]

/-- `storedByte` depends on RAM and the cartridge of the later state alone. -/
theorem storedByte_congr {a : Word} {v : Byte} {s t t' : State} (h : storedByte a v s t)
    (hr : t'.ram = t.ram) (hc : t'.cart = t.cart) : storedByte a v s t' :=
  ⟨fun b hb => (memRead1_congr hr hc b).trans (h.1 b hb),
    fun h1 h2 b hb => (memRead1_congr hr hc b).trans (h.2.1 h1 h2 b hb),
    fun hn b => (memRead1_congr hr hc b).trans (h.2.2 hn b)⟩

/-- The registers outlive a byte store. -/
theorem memWrite1_registers {a : Word} {v : Byte} {s t : State} (h : memWrite1 a v s = .ok t) :
    registersKept s t ∧ t.sr = s.sr ∧ t.pc = s.pc := by
  rw [memWrite1_keeps h]
  exact ⟨⟨rfl, rfl, rfl, rfl⟩, rfl, rfl⟩

/-! ### The stack -/

theorem stackAddr_toNat (sp : Byte) : (stackAddr sp).toNat = 0x100 + sp.toNat := by
  have : sp.toNat < 256 := sp.isLt
  simp only [stackAddr, Config.stackBase, BitVec.toNat_add, zext16_toNat]
  rw [show ((0x0100 : Word).toNat) = 256 from rfl]
  omega

theorem stackAddr_lt (sp : Byte) : (stackAddr sp).toNat < 0x2000 := by
  have : sp.toNat < 256 := sp.isLt
  rw [stackAddr_toNat]
  omega

theorem stackAddr_mod (sp : Byte) : (stackAddr sp).toNat % 0x800 = 0x100 + sp.toNat := by
  have : sp.toNat < 256 := sp.isLt
  rw [stackAddr_toNat]
  omega

/-- A push always answers (R209). -/
theorem push_eq (v : Byte) (s : State) :
    push v s = .ok ((s.setRam (Memory.write s.ram (0x100 + s.sp.toNat) v)).setSp (s.sp - 1)) := by
  rw [push, memWrite1_ram (stackAddr_lt _), stackAddr_mod]

/-- A 16-bit push always answers: high byte at the stack pointer, low byte below it (R209). -/
theorem pushWord_eq (w : Word) (s : State) :
    pushWord w s =
      .ok ((s.setRam (Memory.write (Memory.write s.ram (0x100 + s.sp.toNat) (highByte w))
        (0x100 + (s.sp - 1).toNat) (lowByte w))).setSp (s.sp - 2)) := by
  have : s.sp - 1 - 1 = s.sp - 2 := by
    apply BitVec.eq_of_toNat_eq
    simp only [BitVec.toNat_sub, show (1 : Byte).toNat = 1 from rfl, show (2 : Byte).toNat = 2 from rfl]
    omega
  rw [pushWord, push_eq]
  simp only [push_eq, State.setSp_sp, State.setSp_ram, State.setRam_ram, this]
  rfl

/-- A pull always answers (R210). -/
theorem pullByte_eq (s : State) : pullByte s = .ok (Memory.read s.ram (0x100 + (s.sp + 1).toNat)) := by
  rw [pullByte, memRead1_ram (stackAddr_lt _), stackAddr_mod]

theorem pullWord_eq (s : State) :
    pullWord s = .ok (wordOf (Memory.read s.ram (0x100 + (s.sp + 1 + 1).toNat))
      (Memory.read s.ram (0x100 + (s.sp + 1).toNat))) := by
  rw [pullWord, pullByte_eq, pullByte_eq]
  rfl

theorem returnFromBreak_eq (s : State) :
    returnFromBreak s =
      .ok (((pulled (pulled (pulled s))).setSr
          (pulledStatus (Memory.read s.ram (0x100 + (s.sp + 1).toNat)) s.sr)).setPc
        (wordOf (Memory.read s.ram (0x100 + (s.sp + 1 + 1 + 1).toNat))
          (Memory.read s.ram (0x100 + (s.sp + 1 + 1).toNat)))) := by
  rw [returnFromBreak, pullByte_eq, pullWord_eq]
  rfl

/-- The state the break sequence ends in when it read the vector `v` (R267). -/
theorem enterBreak_eq {s : State} {v : Word} (h : memRead2 Config.breakVector s = .ok v) :
    enterBreak s =
      .ok { s with
        ram := Memory.write (Memory.write (Memory.write s.ram (0x100 + s.sp.toNat) (highByte (s.pc + 2)))
          (0x100 + (s.sp - 1).toNat) (lowByte (s.pc + 2))) (0x100 + (s.sp - 2).toNat) (pushedStatus s.sr)
        sp := s.sp - 3
        sr := putFlag .interruptDisable true s.sr
        pc := v } := by
  have : s.sp - 2 - 1 = s.sp - 3 := by
    apply BitVec.eq_of_toNat_eq
    simp only [BitVec.toNat_sub, show (1 : Byte).toNat = 1 from rfl, show (2 : Byte).toNat = 2 from rfl,
      show (3 : Byte).toNat = 3 from rfl]
    omega
  rw [enterBreak, h]
  simp only [pushWord_eq, push_eq, State.setSp_sp, State.setSp_ram, State.setRam_ram, this]
  rfl

/-- A push stores one byte at the stack pointer and steps it down; nothing else changes (R209). -/
theorem push_stored {v : Byte} {s t : State} (h : push v s = .ok t) :
    storedByte (stackAddr s.sp) v s t ∧ t = { s with ram := t.ram, sp := s.sp - 1 } := by
  unfold push at h
  split at h
  · next u hu =>
    rw [Except.ok.injEq] at h
    subst h
    refine ⟨storedByte_congr (memWrite1_stored hu) rfl rfl, ?_⟩
    rw [memWrite1_ram (stackAddr_lt _), Except.ok.injEq] at hu
    subst hu; rfl
  · cases h

/-- A read of a stack byte is the cell at 0x100 plus the pointer. -/
theorem memRead1_stack (sp : Byte) (s : State) :
    memRead1 (stackAddr sp) s = .ok (Memory.read s.ram (0x100 + sp.toNat)) := by
  rw [memRead1_ram (stackAddr_lt _), stackAddr_mod]

/-- An address outside the cell of a stack byte is no mirror of it. -/
theorem not_stackCell {sp : Byte} {b : Word} (h : ¬ sameCell (stackAddr sp) b) :
    b.toNat < 0x2000 → b.toNat % 0x800 ≠ 0x100 + sp.toNat := by
  intro hr hb
  exact h (.inr ⟨stackAddr_lt _, hr, by rw [stackAddr_mod, hb]⟩)

/-- A byte reads the same where the cartridge is the same and its RAM cell is none of those that may have
changed. -/
theorem memRead1_outside {b : Word} {s t : State} (hc : t.cart = s.cart) (P : Nat → Prop)
    (hm : ∀ o, ¬ P o → Memory.read t.ram o = Memory.read s.ram o)
    (hb : b.toNat < 0x2000 → ¬ P (b.toNat % 0x800)) : memRead1 b t = memRead1 b s := by
  by_cases hr : b.toNat < 0x2000
  · rw [memRead1_ram hr, memRead1_ram hr, hm _ (hb hr)]
  · rcases address_cases b s with h | ⟨h1, h2⟩ | h1 | ⟨h1, h2, m', hm'⟩ | ⟨h1, h2, hm'⟩
    · exact absurd h hr
    · rw [memRead1_ppu h1 h2, memRead1_ppu h1 h2]
    · rw [memRead1_rom h1, memRead1_rom h1, hc]
    · rw [memRead1_prgRam h1 h2 hm', memRead1_prgRam h1 h2 (hc ▸ hm')]
    · rw [memRead1_unbacked h1 h2 hm', memRead1_unbacked h1 h2 (hc ▸ hm')]

/-! ### The canonical form is kept -/

theorem State.wf_setRam {s : State} (h : s.wf = true) {o : Nat} (ho : o < 0x800) (v : Byte) :
    (s.setRam (Memory.write s.ram o v)).wf = true := by
  simp only [State.wf, Bool.and_eq_true] at h ⊢
  exact ⟨Memory.wf_write h.1 ho v, h.2⟩

/-- A byte store keeps the canonical form. -/
theorem memWrite1_wf {a : Word} {v : Byte} {s t : State} (h : memWrite1 a v s = .ok t)
    (hw : s.wf = true) : t.wf = true := by
  rcases memWrite1_cases h with ⟨ha, rfl⟩ | ⟨_, rfl⟩ | ⟨m, h1, h2, hm, rfl⟩
  · exact State.wf_setRam hw (Nat.mod_lt _ (by decide)) v
  · exact hw
  · simp only [State.wf, Cartridge.wf, hm, Option.all_some, Bool.and_eq_true, State.setPrgRam_ram,
      State.setPrgRam_cart] at hw ⊢
    exact ⟨hw.1, ⟨⟨hw.2.1.1.1, Memory.wf_write hw.2.1.1.2 (by rw [prgRamSize_eq]; omega) v⟩, hw.2.1.2⟩,
      hw.2.2⟩

/-- Good states are good by their memory alone. -/
theorem State.wf_congr {s t : State} (hr : t.ram = s.ram) (hc : t.cart = s.cart) : t.wf = s.wf := by
  simp only [State.wf, hr, hc]

theorem push_wf {v : Byte} {s t : State} (h : push v s = .ok t) (hw : s.wf = true) : t.wf = true := by
  rw [push_eq, Except.ok.injEq] at h
  subst h
  have : s.sp.toNat < 256 := s.sp.isLt
  exact (State.wf_congr rfl rfl).trans (State.wf_setRam hw (o := 0x100 + s.sp.toNat) (by omega) v)

theorem pushWord_wf {w : Word} {s t : State} (h : pushWord w s = .ok t) (hw : s.wf = true) :
    t.wf = true := by
  rw [pushWord] at h
  split at h
  · exact push_wf h (push_wf ‹_› hw)
  · cases h

/-- The 16-bit store keeps the canonical form too. -/
theorem memWrite2_wf {a : Word} {v : Word} {s t : State} (h : memWrite2 a v s = .ok t)
    (hw : s.wf = true) : t.wf = true := by
  have hw' := hw
  simp only [State.wf, Cartridge.wf, Bool.and_eq_true] at hw'
  unfold memWrite2 at h
  split at h
  · rw [Block.storeU16] at h
    split at h
    · simp only [atBus, storedRam, Except.ok.injEq] at h
      subst h
      simp only [State.wf, Bool.and_eq_true, State.setRam_ram, State.setRam_cart]
      rw [Config.ramSize] at *
      exact ⟨Memory.wf_write (Memory.wf_write hw'.1 (by omega) _) (by omega) _, by
        simp only [Cartridge.wf, Bool.and_eq_true]; exact hw'.2⟩
    · simp [atBus, storedRam] at h
  · simp only [Except.ok.injEq] at h
    exact h ▸ hw
  · split at h
    · simp only [Except.ok.injEq] at h
      exact h ▸ hw
    · next m hwin =>
      have hm : s.cart.prgRam = some m := by
        rw [Cartridge.window] at hwin
        split at hwin
        · cases hwin
        · split at hwin
          · cases hwin
          · split at hwin
            · simp_all
            · cases hwin
      rw [Block.storeU16] at h
      split at h
      · simp only [atBus, storedPrgRam, Except.ok.injEq] at h
        subst h
        rw [hm] at hw'
        simp only [State.wf, Cartridge.wf, Bool.and_eq_true, State.setPrgRam_ram, State.setPrgRam_cart,
          Option.all_some]
        exact ⟨hw'.1, ⟨⟨hw'.2.1.1.1, Memory.wf_write (Memory.wf_write hw'.2.1.1.2 (by omega) _) (by omega) _⟩,
          hw'.2.1.2⟩, hw'.2.2⟩
      · simp [atBus, storedPrgRam] at h
    · cases h

end Sys2Proof.Machine
end

