-- ==== Sys2Proof/Laws/Operands.lean ====
section
/-! SUPPORT. The laws of operand resolution: a resolved operand is a byte that was read, which state it
depends on, where a zero-page operand lies, and what the record of an instruction holds. -/

namespace Sys2Proof.Machine

theorem refAt_ok {a : Word} {b : Option Word} {s : State} {r : MemRef} :
    refAt a b s = .ok r ↔ memRead1 a s = .ok r.val ∧ r.addr = a ∧ r.base = b := by
  unfold refAt
  cases h : memRead1 a s with
  | error f => simp
  | ok v =>
    obtain ⟨ra, rv, rb⟩ := r
    simp only [Except.ok.injEq, MemRef.mk.injEq]
    constructor
    · rintro ⟨h1, h2, h3⟩; exact ⟨h2, h1.symm, h3.symm⟩
    · rintro ⟨h1, h2, h3⟩; exact ⟨h2.symm, h1, h3.symm⟩

theorem refAt_of_read {a : Word} {v : Byte} {s : State} (h : memRead1 a s = .ok v) (b : Option Word) :
    refAt a b s = .ok { addr := a, val := v, base := b } := by
  rw [refAt, h]

theorem refAt_error {a : Word} {f : Fault} {s : State} (h : memRead1 a s = .error f) (b : Option Word) :
    refAt a b s = .error f := by
  rw [refAt, h]

/-- A resolved memory operand is a byte that was read at its address (R204, R350). -/
theorem resolveMem_read {m : MemOperand} {s : State} {r : MemRef} (h : resolveMem m s = .ok r) :
    memRead1 r.addr s = .ok r.val := by
  cases m <;> simp only [resolveMem] at h
  case indx => split at h <;> first | cases h | (have := refAt_ok.1 h; rw [this.2.1]; exact this.1)
  case indy => split at h <;> first | cases h | (have := refAt_ok.1 h; rw [this.2.1]; exact this.1)
  all_goals (have := refAt_ok.1 h; rw [this.2.1]; exact this.1)

theorem resolveInd_read {p : PageWrapPolicy} {w : Word} {s : State} {r : MemRef}
    (h : resolveInd p w s = .ok r) :
    memRead1 r.addr s = .ok r.val ∧ r.base = none := by
  unfold resolveInd at h
  split at h
  · have := refAt_ok.1 h
    exact ⟨by rw [this.2.1]; exact this.1, this.2.2⟩
  · cases h

theorem resolveRel_read {a : Word} {d : Byte} {s : State} {r : MemRef} (h : resolveRel a d s = .ok r) :
    memRead1 r.addr s = .ok r.val ∧ r.addr = a + 2 + sext16 d ∧ r.base = some (a + 2) := by
  have := refAt_ok.1 h
  exact ⟨by rw [this.2.1]; exact this.1, this.2⟩

theorem zext16_lt (v : Byte) : (zext16 v).toNat < 0x2000 := by
  have : v.toNat < 256 := v.isLt
  rw [zext16_toNat]
  omega

/-- A zero-page pointer is always read: two bytes of the zero page, low byte first (R180). -/
theorem zpRead16_eq (p : Byte) (s : State) :
    zpRead16 p s = .ok (wordOf (Memory.read s.ram (p + 1).toNat) (Memory.read s.ram p.toNat)) := by
  have h (q : Byte) : (zext16 q).toNat % 0x800 = q.toNat := by
    have : q.toNat < 256 := q.isLt
    rw [zext16_toNat]
    omega
  simp only [zpRead16, Config.zpPtrWrap, if_true, memRead1_ram (zext16_lt _), h]

theorem zpIndexed_eq (nn i : Byte) : zpIndexed nn i = zext16 (nn + i) := by
  simp [zpIndexed, Config.zpIndexWrap]

/-- Which state a byte read depends on: RAM and the cartridge. -/
theorem refAt_congr {s t : State} (hr : t.ram = s.ram) (hc : t.cart = s.cart) (a : Word)
    (b : Option Word) : refAt a b t = refAt a b s := by
  rw [refAt, refAt, memRead1_congr hr hc]

theorem zpRead16_congr {s t : State} (hr : t.ram = s.ram) (p : Byte) :
    zpRead16 p t = zpRead16 p s := by
  rw [zpRead16_eq, zpRead16_eq, hr]

/-- Operand resolution depends on X, Y, RAM and the cartridge (R191). -/
theorem resolveMem_congr {s t : State} (hx : t.x = s.x) (hy : t.y = s.y) (hr : t.ram = s.ram)
    (hc : t.cart = s.cart) (m : MemOperand) : resolveMem m t = resolveMem m s := by
  cases m <;> simp only [resolveMem, refAt_congr hr hc, zpRead16_congr hr, hx, hy]

theorem resolveInd_congr {s t : State} (hr : t.ram = s.ram) (hc : t.cart = s.cart) (p : PageWrapPolicy)
    (w : Word) : resolveInd p w t = resolveInd p w s := by
  simp only [resolveInd, readPointer, readPointerInPage, refAt_congr hr hc, memRead1_congr hr hc,
    memRead2_congr hr hc]

/-- The pointer read of JMP `ind` is one of two, whatever the parameter: the 16-bit read, or, at the end
of a page under `wrap`, the read within the page (R177). -/
theorem readPointer_cases (p : PageWrapPolicy) (ptr : Word) (s : State) :
    readPointer p ptr s = memRead2 ptr s ∨
      (lowByte ptr = 0xFF ∧ p = .wrap ∧ readPointer p ptr s = readPointerInPage ptr s) := by
  unfold readPointer
  split
  · next h => cases p <;> simp [h]
  · exact .inl rfl

theorem readPointer_of_ne {ptr : Word} (h : lowByte ptr ≠ 0xFF) (p : PageWrapPolicy) (s : State) :
    readPointer p ptr s = memRead2 ptr s := if_neg h

/-- Only `refuse` gives no meaning, and the machine that `step` runs does not take it (log 2). -/
@[simp] theorem pointerRefused_openParams (ptr : Word) :
    pointerRefused Config.openParams.pageWrap ptr = false := by
  unfold Config.openParams pointerRefused
  cases Config.jmpIndPageWrap <;> simp

theorem resolveInd_error {p : PageWrapPolicy} {ptr : Word} {s : State} {f : Fault}
    (h : readPointer p ptr s = .error f) : resolveInd p ptr s = .error f := by
  rw [resolveInd, h]

theorem resolveInd_of_pointer {p : PageWrapPolicy} {ptr ea : Word} {s : State}
    (h : readPointer p ptr s = .ok ea) : resolveInd p ptr s = refAt ea none s := by
  rw [resolveInd, h]

/-- The record of an instruction depends on AC, X, Y, RAM and the cartridge (R191). -/
theorem describe_congr {s t : State} (ha : t.ac = s.ac) (hx : t.x = s.x) (hy : t.y = s.y)
    (hr : t.ram = s.ram) (hc : t.cart = s.cart) (a : Word) (mn : Mnemonic) (o : Operand) :
    describe a mn o t = describe a mn o s := by
  cases o <;>
    simp only [describe, ha, resolveMem_congr hx hy hr hc, resolveInd_congr hr hc, resolveRel,
      refAt_congr hr hc]

/-- The record with a memory reference in it. -/
theorem withRef_ok {op op' : DecodedOp} {r : Except Fault MemRef} :
    withRef op r = .ok op' ↔
      ∃ m, r = .ok m ∧ op' = { op with addr := some m.addr, val := some m.val, base := m.base } := by
  cases r with
  | error f => simp [withRef]
  | ok m =>
    simp only [withRef, Except.ok.injEq, exists_eq_left']
    exact eq_comm

theorem withRef_error {op : DecodedOp} {r : Except Fault MemRef} {f : Fault} :
    withRef op r = .error f ↔ r = .error f := by
  cases r <;> simp [withRef]

/-- A record keeps what the opcode byte settles. -/
theorem describe_shape {a : Word} {mn : Mnemonic} {o : Operand} {s : State} {op : DecodedOp}
    (h : describe a mn o s = .ok op) :
    op.mnemonic = mn ∧ op.mode = o.mode ∧ op.cycles = baseCycles mn o.mode ∧ op.length = o.mode.length ∧
      op.pagePenalty = pagePenalty mn o.mode ∧ op.relFixup = relFixup o.mode := by
  cases o <;> simp only [describe, withRef_ok, Except.ok.injEq] at h
  case mem m =>
    obtain ⟨r, -, rfl⟩ := h
    exact ⟨rfl, rfl, rfl, rfl, rfl, rfl⟩
  case rel d =>
    obtain ⟨r, -, rfl⟩ := h
    exact ⟨rfl, rfl, rfl, rfl, rfl, rfl⟩
  case ind w =>
    obtain ⟨r, -, rfl⟩ := h
    exact ⟨rfl, rfl, rfl, rfl, rfl, rfl⟩
  all_goals (subst h; exact ⟨rfl, rfl, rfl, rfl, rfl, rfl⟩)

end Sys2Proof.Machine
end

