-- ==== Sys2Proof/Laws/Exec.lean ====
section
/-! SUPPORT. What an instruction can do, said once: every mnemonic has one of twelve kinds of effect, every
instruction runs as its kind says on its operand, and each kind answers exactly one next state. Later proofs
go by the kinds and never unfold `exec`. -/

namespace Sys2Proof.Machine

/-- JMP `ind` as `step` runs it: the parameter it takes never refuses (R177; log 2). -/
theorem execJmpInd_eq (w : Word) (s : State) :
    execJmpInd w s = runJump .ind (resolveInd Config.openParams.pageWrap w s) s := by
  simp [execJmpInd, runJumpInd]

/-- BRK as `step` runs it: the break sequence (R267; log 1). -/
theorem execBrk_eq (s : State) :
    execBrk s =
      match enterBreak s with
      | .error e => .fault e
      | .ok t => .next (transfer .BRK .impl 0 t.pc t) := rfl

/-- The kinds of effect. -/
inductive Effect where
  | read (f : Byte → State → State)
  | store (v : State → Byte)
  | modify (f : Byte → Byte → Shifted)
  | implied (f : State → State)
  | push (v : State → Byte)
  | pull (f : Byte → State → State)
  | branch (flag : Flag) (want : Bool)
  | jump
  | call
  | ret
  | rti
  | brk

/-- The kind of each mnemonic. -/
def effectOf : Mnemonic → Effect
  | .LDA => .read opLda
  | .LDX => .read opLdx
  | .LDY => .read opLdy
  | .ADC => .read opAdc
  | .SBC => .read opSbc
  | .CMP => .read opCmp
  | .CPX => .read opCpx
  | .CPY => .read opCpy
  | .AND => .read opAnd
  | .ORA => .read opOra
  | .EOR => .read opEor
  | .BIT => .read opBit
  | .STA => .store State.ac
  | .STX => .store State.x
  | .STY => .store State.y
  | .INC => .modify increment
  | .DEC => .modify decrement
  | .ASL => .modify shiftLeft
  | .LSR => .modify shiftRight
  | .ROL => .modify rotateLeft
  | .ROR => .modify rotateRight
  | .INX => .implied opInx
  | .INY => .implied opIny
  | .DEX => .implied opDex
  | .DEY => .implied opDey
  | .BPL => .branch .negative false
  | .BMI => .branch .negative true
  | .BVC => .branch .overflow false
  | .BVS => .branch .overflow true
  | .BCC => .branch .carry false
  | .BCS => .branch .carry true
  | .BNE => .branch .zero false
  | .BEQ => .branch .zero true
  | .JMP => .jump
  | .JSR => .call
  | .RTS => .ret
  | .RTI => .rti
  | .BRK => .brk
  | .PHA => .push State.ac
  | .PHP => .push fun s => pushedStatus s.sr
  | .PLA => .pull opPla
  | .PLP => .pull opPlp
  | .CLC => .implied (opFlag .carry false)
  | .SEC => .implied (opFlag .carry true)
  | .CLI => .implied (opFlag .interruptDisable false)
  | .SEI => .implied (opFlag .interruptDisable true)
  | .CLV => .implied (opFlag .overflow false)
  | .CLD => .implied (opFlag .decimal false)
  | .SED => .implied (opFlag .decimal true)
  | .TAX => .implied opTax
  | .TAY => .implied opTay
  | .TXA => .implied opTxa
  | .TYA => .implied opTya
  | .TSX => .implied opTsx
  | .TXS => .implied opTxs
  | .NOP => .implied id

/-- The state after the advance, as the record of the instruction says it (R201, R205). -/
def finished (op : DecodedOp) (s : State) : State :=
  { s with pc := s.pc + BitVec.ofNat 16 op.length, cycles := op.count }

/-- `Runs mn o e i`: instruction `i` runs as a mnemonic `mn` of kind `e` on operand `o`. -/
def Runs (mn : Mnemonic) (i : Instr) : Effect → Operand → Prop
  | .read f, .imm nn => ∀ s, exec i s = runImmediate mn nn f s
  | .read f, .mem m => ∀ s, exec i s = runRead mn m f s
  | .store v, .mem m => ∀ s, exec i s = runStore mn m (v s) s
  | .modify f, .acc => ∀ s, exec i s = runModifyAcc mn f s
  | .modify f, .mem m => ∀ s, exec i s = runModify mn m f s
  | .implied f, .impl => ∀ s, exec i s = runImplied mn f s
  | .push v, .impl => ∀ s, exec i s = runPush mn (v s) s
  | .pull f, .impl => ∀ s, exec i s = runPull mn f s
  | .branch flag want, .rel d => ∀ s, exec i s = runBranch mn flag want d s
  | .jump, .mem (.abs w) => mn = .JMP ∧ ∀ s, exec i s = execJmpAbs w s
  | .jump, .ind w => mn = .JMP ∧ ∀ s, exec i s = execJmpInd w s
  | .call, .mem (.abs w) => mn = .JSR ∧ i = .jsr w ∧ ∀ s, exec i s = execJsr w s
  | .ret, .impl => mn = .RTS ∧ ∀ s, exec i s = execRts s
  | .rti, .impl => mn = .RTI ∧ ∀ s, exec i s = execRti s
  | .brk, .impl => mn = .BRK ∧ ∀ s, exec i s = execBrk s
  | _, _ => False

/-- Every instruction runs as its mnemonic's kind says. -/
theorem runs_of_form {i : Instr} {mn : Mnemonic} {o : Operand} (h : i.form = some (mn, o)) :
    Runs mn i (effectOf mn) o := by
  cases i <;> simp only [Instr.form, Option.some.injEq, Prod.mk.injEq, reduceCtorEq] at h <;>
    (obtain ⟨rfl, rfl⟩ := h; first | exact fun _ => rfl | exact ⟨rfl, fun _ => rfl⟩ | exact ⟨rfl, rfl, fun _ => rfl⟩)

/-- `Answers op s t e`: `t` is what an instruction of kind `e` whose operand is the record `op` leaves. -/
def Answers (op : DecodedOp) (s t : State) : Effect → Prop
  | .read f => ∃ m, op.val = some m ∧ t = finished op (f m s)
  | .store v => ∃ ea u, op.addr = some ea ∧ memWrite1 ea (v s) s = .ok u ∧ t = finished op u
  | .modify f => ∃ m, op.val = some m ∧
      ((op.mode = .acc ∧ op.addr = none ∧
          t = finished op ((s.setAc (f m s.sr).r).setSr (f m s.sr).sr)) ∨
        ∃ ea u, op.mode ≠ .acc ∧ op.addr = some ea ∧ memWrite1 ea (f m s.sr).r s = .ok u ∧
          t = finished op (u.setSr (f m s.sr).sr))
  | .implied f => t = finished op (f s)
  | .push v => ∃ u, push (v s) s = .ok u ∧ t = finished op u
  | .pull f => ∃ v, pullByte s = .ok v ∧ t = finished op (f v (pulled s))
  | .branch flag want => ∃ tgt, op.addr = some tgt ∧ op.base = some (s.pc + 2) ∧
      t = if getFlag flag s.sr = want then
          { s with pc := tgt, cycles := if page tgt ≠ page (s.pc + 2) then 4 else 3 }
        else { s with pc := s.pc + 2, cycles := 2 }
  | .jump => ∃ ea, op.addr = some ea ∧ t = { s with pc := ea, cycles := op.count }
  | .call => ∃ ea u, op.addr = some ea ∧ pushWord (s.pc + 2) s = .ok u ∧
      t = { u with pc := ea, cycles := 6 }
  | .ret => ∃ w, pullWord s = .ok w ∧ t = { pulled (pulled s) with pc := w + 1, cycles := 6 }
  | .rti => ∃ u, returnFromBreak s = .ok u ∧ t = { u with cycles := 6 }
  | .brk => ∃ u, enterBreak s = .ok u ∧ t = { u with cycles := 7 }

/-- The advance with the count of a reference is the advance with the count of the record (R205). -/
theorem advance_eq_finished (mn : Mnemonic) (m : MemOperand) (r : MemRef) (u : State) :
    advance mn m.mode (pageExtra mn m.mode r) u =
      finished { opShape mn m.mode with addr := some r.addr, val := some r.val, base := r.base } u := by
  obtain ⟨a, v, b⟩ := r
  cases b with
  | none => simp [advance, finished, DecodedOp.count, opShape, pageExtra, State.setPc, State.setCycles]
  | some b =>
    simp only [advance, finished, DecodedOp.count, opShape, pageExtra, State.setPc, State.setCycles,
      Bool.and_eq_true, decide_eq_true_eq]
    congr

theorem advance_eq_finished_of_shape {mn : Mnemonic} {md : AddressingMode} {op : DecodedOp} (u : State)
    (hl : op.length = md.length) (hc : op.cycles = baseCycles mn md) (ha : op.addr = none) :
    advance mn md 0 u = finished op u := by
  simp [advance, finished, DecodedOp.count, ha, hl, hc, State.setPc, State.setCycles]

/-- An operand that does not resolve ends the instruction with the error of its read (R182, R200). -/
theorem exec_error {i : Instr} {mn : Mnemonic} {o : Operand} {s : State} {f : Fault}
    (hf : i.form = some (mn, o)) (hd : describe s.pc mn o s = .error f) : exec i s = .fault f := by
  have hr := runs_of_form hf
  cases o with
  | impl => cases hd
  | acc => cases hd
  | imm nn => cases hd
  | mem m =>
    have hm : resolveMem m s = .error f := withRef_error.1 hd
    cases he : effectOf mn <;> rw [he] at hr <;> simp only [Runs] at hr
    case read => rw [hr s, runRead, hm]
    case store => rw [hr s, runStore, hm]
    case modify => rw [hr s, runModify, hm]
    case jump => cases m <;> first | exact hr.elim | simp only [hr.2 s, execJmpAbs, runJump, hm]
    case call => cases m <;> first | exact hr.elim | simp only [hr.2.2 s, execJsr, hm]
  | rel d =>
    have hm : resolveRel s.pc d s = .error f := withRef_error.1 hd
    cases he : effectOf mn <;> rw [he] at hr <;> simp only [Runs] at hr
    rw [hr s, runBranch, hm]
  | ind w =>
    have hm : resolveInd Config.openParams.pageWrap w s = .error f := withRef_error.1 hd
    cases he : effectOf mn <;> rw [he] at hr <;> simp only [Runs] at hr
    simp only [hr.2 s, execJmpInd_eq, runJump, hm]

theorem branchTimes (flag : Bool) (want : Bool) (tgt : Word) (s : State) (mn : Mnemonic)
    (hb : baseCycles mn .rel = 2) :
    transfer mn .rel (branchExtra (flag == want) (s.pc + 2) tgt)
        (if (flag == want) = true then tgt else s.pc + 2) s =
      if flag = want then { s with pc := tgt, cycles := if page tgt ≠ page (s.pc + 2) then 4 else 3 }
      else { s with pc := s.pc + 2, cycles := 2 } := by
  by_cases h : flag = want
  · subst h
    simp only [transfer, branchExtra, hb, State.setPc, State.setCycles, beq_self_eq_true, if_true]
    split <;> rfl
  · simp [transfer, branchExtra, hb, h, State.setPc, State.setCycles]

theorem branch_base {mn : Mnemonic} {flag : Flag} {want : Bool} (h : effectOf mn = .branch flag want) :
    baseCycles mn .rel = 2 := by
  cases mn <;> first | rfl | cases h

/-- An operand that resolves lets the instruction answer a next state, but for BRK without a vector
(R200, R211). -/
theorem exec_answers {i : Instr} {mn : Mnemonic} {o : Operand} {s : State} {op : DecodedOp}
    (hf : i.form = some (mn, o)) (hd : describe s.pc mn o s = .ok op) :
    (∃ t, exec i s = .next t ∧ Answers op s t (effectOf mn)) ∨
      (mn = .BRK ∧ ∃ f, memRead2 Config.breakVector s = .error f ∧ exec i s = .fault f) := by
  have hr := runs_of_form hf
  cases o with
  | impl =>
    simp only [describe, Except.ok.injEq] at hd
    subst hd
    cases he : effectOf mn <;> rw [he] at hr <;> simp only [Runs] at hr
    case implied f =>
      exact .inl ⟨_, hr s, advance_eq_finished_of_shape _ rfl rfl rfl⟩
    case push v =>
      refine .inl ⟨_, ?_, _, push_eq _ _, rfl⟩
      rw [hr s, runPush, push_eq]
      exact congrArg _ (advance_eq_finished_of_shape _ rfl rfl rfl)
    case pull f =>
      refine .inl ⟨_, ?_, _, pullByte_eq _, rfl⟩
      rw [hr s, runPull, pullByte_eq]
      exact congrArg _ (advance_eq_finished_of_shape _ rfl rfl rfl)
    case ret =>
      refine .inl ⟨_, ?_, _, pullWord_eq _, rfl⟩
      rw [hr.2 s, execRts, pullWord_eq]
      rfl
    case rti =>
      refine .inl ⟨_, ?_, _, returnFromBreak_eq _, rfl⟩
      rw [hr.2 s, execRti, returnFromBreak_eq]
      rfl
    case brk =>
      cases hv : memRead2 Config.breakVector s with
      | error f =>
        refine .inr ⟨hr.1, f, rfl, ?_⟩
        rw [hr.2 s, execBrk_eq, enterBreak, hv]
      | ok v =>
        refine .inl ⟨_, ?_, _, enterBreak_eq hv, rfl⟩
        rw [hr.2 s, execBrk_eq, enterBreak_eq hv]
        rfl
  | acc =>
    simp only [describe, Except.ok.injEq] at hd
    subst hd
    cases he : effectOf mn <;> rw [he] at hr <;> simp only [Runs] at hr
    case modify f =>
      refine .inl ⟨_, hr s, s.ac, rfl, .inl ⟨rfl, rfl, advance_eq_finished_of_shape _ rfl rfl rfl⟩⟩
  | imm nn =>
    simp only [describe, Except.ok.injEq] at hd
    subst hd
    cases he : effectOf mn <;> rw [he] at hr <;> simp only [Runs] at hr
    case read f =>
      exact .inl ⟨_, hr s, nn, rfl, advance_eq_finished_of_shape _ rfl rfl rfl⟩
  | mem m =>
    obtain ⟨r, hm, rfl⟩ := withRef_ok.1 hd
    have hread := resolveMem_read hm
    cases he : effectOf mn <;> rw [he] at hr <;> simp only [Runs] at hr
    case read f =>
      refine .inl ⟨_, ?_, r.val, rfl, rfl⟩
      rw [hr s, runRead, hm]
      exact congrArg _ (advance_eq_finished mn m r _)
    case store v =>
      obtain ⟨u, hu⟩ := memWrite1_of_read hread (v s)
      refine .inl ⟨_, ?_, r.addr, u, rfl, hu, rfl⟩
      simp only [hr s, runStore, hm, hu]
      exact congrArg _ (advance_eq_finished mn m r _)
    case modify f =>
      obtain ⟨u, hu⟩ := memWrite1_of_read hread (f r.val s.sr).r
      refine .inl ⟨_, ?_, r.val, rfl, .inr ⟨r.addr, u, ?_, rfl, hu, rfl⟩⟩
      · simp only [hr s, runModify, hm, hu]
        exact congrArg _ (advance_eq_finished mn m r _)
      · cases m <;> simp [opShape, MemOperand.mode]
    case jump =>
      cases m <;> first | exact hr.elim | skip
      next w =>
      obtain ⟨rfl, hr⟩ := hr
      have hb : r.base = none := (refAt_ok.1 hm).2.2
      refine .inl ⟨_, ?_, r.addr, rfl, rfl⟩
      simp only [hr s, execJmpAbs, runJump, hm, DecodedOp.count, hb]
      rfl
    case call =>
      cases m <;> first | exact hr.elim | skip
      next w =>
      obtain ⟨rfl, -, hr⟩ := hr
      refine .inl ⟨_, ?_, r.addr, _, rfl, pushWord_eq _ _, rfl⟩
      simp only [hr s, execJsr, hm, pushWord_eq]
      rfl
  | rel d =>
    obtain ⟨r, hm, rfl⟩ := withRef_ok.1 hd
    obtain ⟨-, ha, hb⟩ := resolveRel_read hm
    cases he : effectOf mn <;> rw [he] at hr <;> simp only [Runs] at hr
    next flag want =>
    refine .inl ⟨_, ?_, r.addr, rfl, hb, rfl⟩
    simp only [hr s, runBranch, hm]
    exact congrArg _ (branchTimes _ _ _ s mn (branch_base he))
  | ind w =>
    obtain ⟨r, hm, rfl⟩ := withRef_ok.1 hd
    cases he : effectOf mn <;> rw [he] at hr <;> simp only [Runs] at hr
    obtain ⟨rfl, hr⟩ := hr
    refine .inl ⟨_, ?_, r.addr, rfl, rfl⟩
    simp only [hr s, execJmpInd_eq, runJump, hm, DecodedOp.count, (resolveInd_read hm).2]
    rfl

/-- Everything an instruction that answers can have done (R203). -/
theorem exec_next {i : Instr} {mn : Mnemonic} {o : Operand} {s t : State}
    (hf : i.form = some (mn, o)) (h : exec i s = .next t) :
    ∃ op, describe s.pc mn o s = .ok op ∧ Answers op s t (effectOf mn) := by
  cases hd : describe s.pc mn o s with
  | error f =>
    rw [exec_error hf hd] at h
    cases h
  | ok op =>
    refine ⟨op, rfl, ?_⟩
    rcases exec_answers hf hd with ⟨t', ht, ha⟩ | ⟨-, f, -, hb⟩
    · rw [ht, Host.Outcome.next.injEq] at h
      exact h ▸ ha
    · rw [hb] at h
      cases h

/-- An instruction of a kind other than BRK answers as its kind says whenever its operand resolves. -/
theorem exec_resolves {i : Instr} {mn : Mnemonic} {s : State} {op : DecodedOp} {e : Effect}
    (h : resolvesTo i mn s op) (hb : mn ≠ .BRK) (he : effectOf mn = e) :
    ∃ t, exec i s = .next t ∧ Answers op s t e := by
  obtain ⟨o, hf, hd⟩ := h
  rcases exec_answers hf hd with h | ⟨h, -⟩
  · exact he ▸ h
  · exact absurd h hb

/-! ### What each kind leaves alone -/

theorem read_keeps {mn : Mnemonic} {f : Byte → State → State} (h : effectOf mn = .read f) (m : Byte)
    (s : State) : (f m s).ram = s.ram ∧ (f m s).cart = s.cart ∧ (f m s).pc = s.pc ∧
      (f m s).sp = s.sp := by
  cases mn <;> simp only [effectOf, Effect.read.injEq, reduceCtorEq] at h <;> subst h <;>
    exact ⟨rfl, rfl, rfl, rfl⟩

theorem implied_keeps {mn : Mnemonic} {f : State → State} (h : effectOf mn = .implied f) (s : State) :
    (f s).ram = s.ram ∧ (f s).cart = s.cart ∧ (f s).pc = s.pc := by
  cases mn <;> simp only [effectOf, Effect.implied.injEq, reduceCtorEq] at h <;> subst h <;>
    exact ⟨rfl, rfl, rfl⟩

theorem pull_keeps {mn : Mnemonic} {f : Byte → State → State} (h : effectOf mn = .pull f) (m : Byte)
    (s : State) : (f m s).ram = s.ram ∧ (f m s).cart = s.cart ∧ (f m s).pc = s.pc ∧
      (f m s).sp = s.sp := by
  cases mn <;> simp only [effectOf, Effect.pull.injEq, reduceCtorEq] at h <;> subst h <;>
    exact ⟨rfl, rfl, rfl, rfl⟩

end Sys2Proof.Machine
end

