-- ==== Sys2Proof/Laws/Matrix.lean ====
section
/-! SUPPORT. What mnemonic and mode settle for an instruction that is a row of the tables: its
length and its base count. -/

namespace Sys2Proof

open Sys2Proof.Machine

/-- An instruction with a form is well formed. -/
theorem wf_of_form {i : Instr} {mn : Mnemonic} {o : Operand} (h : i.form = some (mn, o)) :
    i.wf = true := by
  cases i <;> first | rfl | cases h

/-- The length of an encoding depends on the mode alone (R143). -/
theorem encode_length_of_form {i : Instr} {mn : Mnemonic} {o : Operand} (h : i.form = some (mn, o)) :
    (encode i).length = o.mode.length := by
  cases i <;> simp only [Instr.form, Option.some.injEq, Prod.mk.injEq, reduceCtorEq] at h <;>
    (obtain ⟨rfl, rfl⟩ := h; rfl)

/-- Base counts lie between 2 and 7, and below 7 where a page penalty can be added (R143, R205). -/
theorem baseCycles_of_form {i : Instr} {mn : Mnemonic} {o : Operand} (h : i.form = some (mn, o)) :
    2 ≤ baseCycles mn o.mode ∧ baseCycles mn o.mode ≤ 7 ∧
      (pagePenalty mn o.mode = true → baseCycles mn o.mode ≤ 6) := by
  cases i <;> simp only [Instr.form, Option.some.injEq, Prod.mk.injEq, reduceCtorEq] at h <;>
    (obtain ⟨rfl, rfl⟩ := h; simp only [Operand.mode, MemOperand.mode]; decide)

end Sys2Proof
end

