-- ==== Sys2Proof/Laws/Params.lean ====
section
/-! SUPPORT. The OPEN parameters as an argument: what the two instructions that they bear on do under each
value, and that the machine `step` runs is the one at `Config.openParams`. -/

namespace Sys2Proof.Machine

theorem lowByte_eq_FF {ptr : Word} : lowByte ptr = 0xFF ↔ ptr.toNat % 256 = 255 := by
  rw [← BitVec.toNat_inj, lowByte, BitVec.extractLsb'_toNat]
  simp

/-- The second read of the page wrap is at the start of the pointer's page (R177). -/
theorem pageStart {ptr : Word} (h : ptr.toNat % 256 = 255) :
    (ptr &&& 0xFF00) ||| ((ptr + 1) &&& 0x00FF) = ptr - 255 := by
  have hs : ptr = wordOf (highByte ptr) 0xFF := by
    rw [← lowByte_eq_FF.2 h, wordOf_high_low]
  generalize highByte ptr = b at hs
  subst hs
  revert b
  decide

/-- The pointer read within the page: low byte at the pointer, high byte at the start of its page. -/
theorem readPointerInPage_ok {ptr ea : Word} {s : State} (h : ptr.toNat % 256 = 255)
    (hl : memRead1 ptr s = .ok (lowByte ea)) (hh : memRead1 (ptr - 255) s = .ok (highByte ea)) :
    readPointerInPage ptr s = .ok ea := by
  simp only [readPointerInPage, hl, pageStart h, hh, wordOf_high_low]

/-- What the pointer read within the page answered it read there. -/
theorem readPointerInPage_reads {ptr ea : Word} {s : State} (h : ptr.toNat % 256 = 255)
    (hp : readPointerInPage ptr s = .ok ea) :
    memRead1 ptr s = .ok (lowByte ea) ∧ memRead1 (ptr - 255) s = .ok (highByte ea) := by
  unfold readPointerInPage at hp
  split at hp
  · cases hp
  · next lo hlo =>
    rw [pageStart h] at hp
    split at hp
    · cases hp
    · next hi hhi =>
      rw [Except.ok.injEq] at hp
      rw [← hp, lowByte_wordOf, highByte_wordOf]
      exact ⟨hlo, hhi⟩

/-- The pointer read at the end of a page, per value of the parameter (R177). -/
theorem readPointer_wrap {ptr : Word} (h : ptr.toNat % 256 = 255) (s : State) :
    readPointer .wrap ptr s = readPointerInPage ptr s := if_pos (lowByte_eq_FF.2 h)

theorem readPointer_straight (ptr : Word) (s : State) : readPointer .straight ptr s = memRead2 ptr s := by
  unfold readPointer
  split <;> rfl

/-- Where the parameter gives a meaning, JMP `ind` goes to the address its pointer read answers. -/
theorem runJumpInd_next {p : PageWrapPolicy} {ptr ea : Word} {v : Byte} {s : State}
    (hr : pointerRefused p ptr = false) (hp : readPointer p ptr s = .ok ea) (hv : memRead1 ea s = .ok v) :
    runJumpInd p ptr s = .next { s with pc := ea, cycles := 5 } := by
  simp only [runJumpInd, hr, runJump, resolveInd_of_pointer hp, refAt_of_read hv]
  rfl

/-- The error of JMP `ind` is its operand's. -/
theorem runJumpInd_fault {p : PageWrapPolicy} {ptr : Word} {f : Fault} {s : State}
    (hr : pointerRefused p ptr = false) (h : resolveInd p ptr s = .error f) :
    runJumpInd p ptr s = .fault f := by
  simp [runJumpInd, hr, runJump, h]

/-- `refuse` gives no meaning exactly at the end of a page (R177). -/
theorem pointerRefused_iff {p : PageWrapPolicy} {ptr : Word} :
    pointerRefused p ptr = true ↔ ptr.toNat % 256 = 255 ∧ p = .refuse := by
  rw [← lowByte_eq_FF, pointerRefused, Bool.and_eq_true, decide_eq_true_eq, decide_eq_true_eq]

theorem pointerRefused_of_ne {p : PageWrapPolicy} {ptr : Word} (h : p ≠ .refuse) :
    pointerRefused p ptr = false := by
  simp [pointerRefused, h]

theorem runJumpInd_refused {ptr : Word} (h : ptr.toNat % 256 = 255) (s : State) :
    runJumpInd .refuse ptr s = .refused (.jmpIndPageWrap ptr) :=
  if_pos (pointerRefused_iff.2 ⟨h, rfl⟩)

theorem runBreak_refused (s : State) : runBreak .refuse s = .refused (.brkPolicy s.pc) := rfl

/-- Execution under the parameters, said once: JMP `ind` and BRK take theirs, every other instruction is
`exec`. -/
theorem execUnder_jmpInd (p : OpenParams) (w : Word) (s : State) :
    execUnder p (.jmpInd w) s = runJumpInd p.pageWrap w s := rfl

theorem execUnder_brk (p : OpenParams) (s : State) : execUnder p .brk s = runBreak p.brk s := rfl

theorem execUnder_of_ne {i : Instr} (hj : ∀ w, i ≠ .jmpInd w) (hb : i ≠ .brk) (p : OpenParams) (s : State) :
    execUnder p i s = exec i s := by
  cases i <;> first | rfl | exact absurd rfl (hj _) | exact absurd rfl hb

/-- Decoding under the parameters depends on them for JMP `ind` alone. -/
theorem describeUnder_jmpInd (p : OpenParams) (a w : Word) (s : State) :
    describeUnder p a (.jmpInd w) s =
      if pointerRefused p.pageWrap w then .refused (.jmpIndPageWrap w)
      else outcomeOf (withRef (opShape .JMP .ind) (resolveInd p.pageWrap w s)) := rfl

theorem describeUnder_of_ne {i : Instr} (hj : ∀ w, i ≠ .jmpInd w) (p : OpenParams) (a : Word) (s : State) :
    describeUnder p a i s = outcomeOf (describeInstr a i s) := by
  cases i <;> first | rfl | exact absurd rfl (hj _)

theorem stepUnder_of_fetch {i : Instr} {s : State} (h : fetchAt s.pc s = .ok i) (p : OpenParams) :
    stepUnder p s = execUnder p i s := by
  rw [stepUnder, h]

theorem decodeUnder_of_fetch {i : Instr} {a : Word} {s : State} (h : fetchAt a s = .ok i) (p : OpenParams) :
    decodeUnder p a s = describeUnder p a i s := by
  rw [decodeUnder, h]

/-- The fetch of JMP `ind` where its bytes stand. -/
theorem fetchAt_jmpInd {a ptr : Word} {s : State} (h : s.holdsAt a (encode (.jmpInd ptr))) :
    fetchAt a s = .ok (.jmpInd ptr) := by
  have h1 : memRead1 a s = .ok 0x6C := h.1
  have h2 : memRead2 (a + 1) s = .ok (wordOf (highByte ptr) (lowByte ptr)) := h.2
  have h3 : decodeOpcode 0x6C = .three .jmpInd := rfl
  simp only [fetchAt, h1, h3, h2, wordOf_high_low]

/-- Where the parameter gives a meaning and pointer and target can be read, JMP `ind` goes to the target. -/
theorem pointerJumps_of_reads {p : OpenParams} {a ptr ea : Word} {v : Byte} {s : State}
    (hr : pointerRefused p.pageWrap ptr = false) (hp : readPointer p.pageWrap ptr s = .ok ea)
    (hv : memRead1 ea s = .ok v) : s.pointerJumps p a ptr ea v := by
  refine ⟨(execUnder_jmpInd _ _ _).trans (runJumpInd_next hr hp hv), fun hh => ?_⟩
  rw [decodeUnder_of_fetch (fetchAt_jmpInd hh), describeUnder_jmpInd, hr, resolveInd_of_pointer hp,
    refAt_of_read hv]
  exact ⟨_, rfl, rfl, rfl, rfl, rfl, rfl, rfl, rfl⟩

/-- Where the parameter gives a meaning, an error of the operand is the error of JMP `ind`. -/
theorem pointerFails_of_resolve {p : OpenParams} {a ptr : Word} {f : Fault} {s : State}
    (hr : pointerRefused p.pageWrap ptr = false) (h : resolveInd p.pageWrap ptr s = .error f) :
    s.pointerFails p a ptr f := by
  refine ⟨(execUnder_jmpInd _ _ _).trans (runJumpInd_fault hr h), fun hh => ?_⟩
  rw [decodeUnder_of_fetch (fetchAt_jmpInd hh), describeUnder_jmpInd, hr, h]
  rfl

/-- `Decode` is the decode at the machine's own parameters. -/
theorem decodeUnder_openParams (a : Word) (s : State) :
    decodeUnder Config.openParams a s = outcomeOf (decodeAt a s) := by
  cases hf : fetchAt a s with
  | error f => simp only [decodeUnder, decodeAt, hf, outcomeOf]
  | ok i =>
    rw [decodeUnder_of_fetch hf, decodeAt, hf]
    by_cases hj : ∃ w, i = .jmpInd w
    · obtain ⟨w, rfl⟩ := hj
      rw [describeUnder_jmpInd, pointerRefused_openParams]
      rfl
    · exact describeUnder_of_ne (fun w h => hj ⟨w, h⟩) _ _ _

/-- `DecodeN` is the lookahead at the machine's own parameters. -/
theorem decodeNUnder_openParams (n : Nat) (a : Word) (s : State) :
    decodeNUnder Config.openParams n a s = outcomeOf (decodeN n a s) := by
  induction n generalizing a with
  | zero => rfl
  | succ n ih =>
    rw [decodeNUnder, decodeN, decodeUnder_openParams]
    cases decodeAt a s with
    | error f => rfl
    | ok op =>
      simp only [outcomeOf, ih]
      cases decodeN n (a + BitVec.ofNat 16 op.length) s <;> rfl

end Sys2Proof.Machine
end

