-- ==== Sys2Proof/Laws/PerInstr.lean ====
section
/-! SUPPORT. One statement about the syntax of every instruction, made constructor by constructor: an
instruction's bytes are its opcode byte and as many operand bytes as its mode has (R143, R161). -/

namespace Sys2Proof.Laws.EncodedLength

/-- The encoding is as long as the mode says, starts with the opcode byte, and is one byte where the
instruction is no row of the tables. -/
def Statement (i : Instr) : Prop :=
  (encode i).head? = some i.opcode ∧
    (encode i).length = match i.form with
      | some (_, o) => o.mode.length
      | none => 1

theorem ldaImm (nn : Byte) : Statement (.ldaImm nn) := ⟨rfl, rfl⟩
theorem ldaZp (nn : Byte) : Statement (.ldaZp nn) := ⟨rfl, rfl⟩
theorem ldaZpX (nn : Byte) : Statement (.ldaZpX nn) := ⟨rfl, rfl⟩
theorem ldaAbs (w : Word) : Statement (.ldaAbs w) := ⟨rfl, rfl⟩
theorem ldaAbsX (w : Word) : Statement (.ldaAbsX w) := ⟨rfl, rfl⟩
theorem ldaAbsY (w : Word) : Statement (.ldaAbsY w) := ⟨rfl, rfl⟩
theorem ldaIndX (nn : Byte) : Statement (.ldaIndX nn) := ⟨rfl, rfl⟩
theorem ldaIndY (nn : Byte) : Statement (.ldaIndY nn) := ⟨rfl, rfl⟩
theorem ldxImm (nn : Byte) : Statement (.ldxImm nn) := ⟨rfl, rfl⟩
theorem ldxZp (nn : Byte) : Statement (.ldxZp nn) := ⟨rfl, rfl⟩
theorem ldxZpY (nn : Byte) : Statement (.ldxZpY nn) := ⟨rfl, rfl⟩
theorem ldxAbs (w : Word) : Statement (.ldxAbs w) := ⟨rfl, rfl⟩
theorem ldxAbsY (w : Word) : Statement (.ldxAbsY w) := ⟨rfl, rfl⟩
theorem ldyImm (nn : Byte) : Statement (.ldyImm nn) := ⟨rfl, rfl⟩
theorem ldyZp (nn : Byte) : Statement (.ldyZp nn) := ⟨rfl, rfl⟩
theorem ldyZpX (nn : Byte) : Statement (.ldyZpX nn) := ⟨rfl, rfl⟩
theorem ldyAbs (w : Word) : Statement (.ldyAbs w) := ⟨rfl, rfl⟩
theorem ldyAbsX (w : Word) : Statement (.ldyAbsX w) := ⟨rfl, rfl⟩
theorem staZp (nn : Byte) : Statement (.staZp nn) := ⟨rfl, rfl⟩
theorem staZpX (nn : Byte) : Statement (.staZpX nn) := ⟨rfl, rfl⟩
theorem staAbs (w : Word) : Statement (.staAbs w) := ⟨rfl, rfl⟩
theorem staAbsX (w : Word) : Statement (.staAbsX w) := ⟨rfl, rfl⟩
theorem staAbsY (w : Word) : Statement (.staAbsY w) := ⟨rfl, rfl⟩
theorem staIndX (nn : Byte) : Statement (.staIndX nn) := ⟨rfl, rfl⟩
theorem staIndY (nn : Byte) : Statement (.staIndY nn) := ⟨rfl, rfl⟩
theorem stxZp (nn : Byte) : Statement (.stxZp nn) := ⟨rfl, rfl⟩
theorem stxZpY (nn : Byte) : Statement (.stxZpY nn) := ⟨rfl, rfl⟩
theorem stxAbs (w : Word) : Statement (.stxAbs w) := ⟨rfl, rfl⟩
theorem styZp (nn : Byte) : Statement (.styZp nn) := ⟨rfl, rfl⟩
theorem styZpX (nn : Byte) : Statement (.styZpX nn) := ⟨rfl, rfl⟩
theorem styAbs (w : Word) : Statement (.styAbs w) := ⟨rfl, rfl⟩
theorem adcImm (nn : Byte) : Statement (.adcImm nn) := ⟨rfl, rfl⟩
theorem adcZp (nn : Byte) : Statement (.adcZp nn) := ⟨rfl, rfl⟩
theorem adcZpX (nn : Byte) : Statement (.adcZpX nn) := ⟨rfl, rfl⟩
theorem adcAbs (w : Word) : Statement (.adcAbs w) := ⟨rfl, rfl⟩
theorem adcAbsX (w : Word) : Statement (.adcAbsX w) := ⟨rfl, rfl⟩
theorem adcAbsY (w : Word) : Statement (.adcAbsY w) := ⟨rfl, rfl⟩
theorem adcIndX (nn : Byte) : Statement (.adcIndX nn) := ⟨rfl, rfl⟩
theorem adcIndY (nn : Byte) : Statement (.adcIndY nn) := ⟨rfl, rfl⟩
theorem sbcImm (nn : Byte) : Statement (.sbcImm nn) := ⟨rfl, rfl⟩
theorem sbcZp (nn : Byte) : Statement (.sbcZp nn) := ⟨rfl, rfl⟩
theorem sbcZpX (nn : Byte) : Statement (.sbcZpX nn) := ⟨rfl, rfl⟩
theorem sbcAbs (w : Word) : Statement (.sbcAbs w) := ⟨rfl, rfl⟩
theorem sbcAbsX (w : Word) : Statement (.sbcAbsX w) := ⟨rfl, rfl⟩
theorem sbcAbsY (w : Word) : Statement (.sbcAbsY w) := ⟨rfl, rfl⟩
theorem sbcIndX (nn : Byte) : Statement (.sbcIndX nn) := ⟨rfl, rfl⟩
theorem sbcIndY (nn : Byte) : Statement (.sbcIndY nn) := ⟨rfl, rfl⟩
theorem cmpImm (nn : Byte) : Statement (.cmpImm nn) := ⟨rfl, rfl⟩
theorem cmpZp (nn : Byte) : Statement (.cmpZp nn) := ⟨rfl, rfl⟩
theorem cmpZpX (nn : Byte) : Statement (.cmpZpX nn) := ⟨rfl, rfl⟩
theorem cmpAbs (w : Word) : Statement (.cmpAbs w) := ⟨rfl, rfl⟩
theorem cmpAbsX (w : Word) : Statement (.cmpAbsX w) := ⟨rfl, rfl⟩
theorem cmpAbsY (w : Word) : Statement (.cmpAbsY w) := ⟨rfl, rfl⟩
theorem cmpIndX (nn : Byte) : Statement (.cmpIndX nn) := ⟨rfl, rfl⟩
theorem cmpIndY (nn : Byte) : Statement (.cmpIndY nn) := ⟨rfl, rfl⟩
theorem cpxImm (nn : Byte) : Statement (.cpxImm nn) := ⟨rfl, rfl⟩
theorem cpxZp (nn : Byte) : Statement (.cpxZp nn) := ⟨rfl, rfl⟩
theorem cpxAbs (w : Word) : Statement (.cpxAbs w) := ⟨rfl, rfl⟩
theorem cpyImm (nn : Byte) : Statement (.cpyImm nn) := ⟨rfl, rfl⟩
theorem cpyZp (nn : Byte) : Statement (.cpyZp nn) := ⟨rfl, rfl⟩
theorem cpyAbs (w : Word) : Statement (.cpyAbs w) := ⟨rfl, rfl⟩
theorem incZp (nn : Byte) : Statement (.incZp nn) := ⟨rfl, rfl⟩
theorem incZpX (nn : Byte) : Statement (.incZpX nn) := ⟨rfl, rfl⟩
theorem incAbs (w : Word) : Statement (.incAbs w) := ⟨rfl, rfl⟩
theorem incAbsX (w : Word) : Statement (.incAbsX w) := ⟨rfl, rfl⟩
theorem inx : Statement .inx := ⟨rfl, rfl⟩
theorem iny : Statement .iny := ⟨rfl, rfl⟩
theorem decZp (nn : Byte) : Statement (.decZp nn) := ⟨rfl, rfl⟩
theorem decZpX (nn : Byte) : Statement (.decZpX nn) := ⟨rfl, rfl⟩
theorem decAbs (w : Word) : Statement (.decAbs w) := ⟨rfl, rfl⟩
theorem decAbsX (w : Word) : Statement (.decAbsX w) := ⟨rfl, rfl⟩
theorem dex : Statement .dex := ⟨rfl, rfl⟩
theorem dey : Statement .dey := ⟨rfl, rfl⟩
theorem andImm (nn : Byte) : Statement (.andImm nn) := ⟨rfl, rfl⟩
theorem andZp (nn : Byte) : Statement (.andZp nn) := ⟨rfl, rfl⟩
theorem andZpX (nn : Byte) : Statement (.andZpX nn) := ⟨rfl, rfl⟩
theorem andAbs (w : Word) : Statement (.andAbs w) := ⟨rfl, rfl⟩
theorem andAbsX (w : Word) : Statement (.andAbsX w) := ⟨rfl, rfl⟩
theorem andAbsY (w : Word) : Statement (.andAbsY w) := ⟨rfl, rfl⟩
theorem andIndX (nn : Byte) : Statement (.andIndX nn) := ⟨rfl, rfl⟩
theorem andIndY (nn : Byte) : Statement (.andIndY nn) := ⟨rfl, rfl⟩
theorem oraImm (nn : Byte) : Statement (.oraImm nn) := ⟨rfl, rfl⟩
theorem oraZp (nn : Byte) : Statement (.oraZp nn) := ⟨rfl, rfl⟩
theorem oraZpX (nn : Byte) : Statement (.oraZpX nn) := ⟨rfl, rfl⟩
theorem oraAbs (w : Word) : Statement (.oraAbs w) := ⟨rfl, rfl⟩
theorem oraAbsX (w : Word) : Statement (.oraAbsX w) := ⟨rfl, rfl⟩
theorem oraAbsY (w : Word) : Statement (.oraAbsY w) := ⟨rfl, rfl⟩
theorem oraIndX (nn : Byte) : Statement (.oraIndX nn) := ⟨rfl, rfl⟩
theorem oraIndY (nn : Byte) : Statement (.oraIndY nn) := ⟨rfl, rfl⟩
theorem eorImm (nn : Byte) : Statement (.eorImm nn) := ⟨rfl, rfl⟩
theorem eorZp (nn : Byte) : Statement (.eorZp nn) := ⟨rfl, rfl⟩
theorem eorZpX (nn : Byte) : Statement (.eorZpX nn) := ⟨rfl, rfl⟩
theorem eorAbs (w : Word) : Statement (.eorAbs w) := ⟨rfl, rfl⟩
theorem eorAbsX (w : Word) : Statement (.eorAbsX w) := ⟨rfl, rfl⟩
theorem eorAbsY (w : Word) : Statement (.eorAbsY w) := ⟨rfl, rfl⟩
theorem eorIndX (nn : Byte) : Statement (.eorIndX nn) := ⟨rfl, rfl⟩
theorem eorIndY (nn : Byte) : Statement (.eorIndY nn) := ⟨rfl, rfl⟩
theorem bitZp (nn : Byte) : Statement (.bitZp nn) := ⟨rfl, rfl⟩
theorem bitAbs (w : Word) : Statement (.bitAbs w) := ⟨rfl, rfl⟩
theorem aslAcc : Statement .aslAcc := ⟨rfl, rfl⟩
theorem aslZp (nn : Byte) : Statement (.aslZp nn) := ⟨rfl, rfl⟩
theorem aslZpX (nn : Byte) : Statement (.aslZpX nn) := ⟨rfl, rfl⟩
theorem aslAbs (w : Word) : Statement (.aslAbs w) := ⟨rfl, rfl⟩
theorem aslAbsX (w : Word) : Statement (.aslAbsX w) := ⟨rfl, rfl⟩
theorem lsrAcc : Statement .lsrAcc := ⟨rfl, rfl⟩
theorem lsrZp (nn : Byte) : Statement (.lsrZp nn) := ⟨rfl, rfl⟩
theorem lsrZpX (nn : Byte) : Statement (.lsrZpX nn) := ⟨rfl, rfl⟩
theorem lsrAbs (w : Word) : Statement (.lsrAbs w) := ⟨rfl, rfl⟩
theorem lsrAbsX (w : Word) : Statement (.lsrAbsX w) := ⟨rfl, rfl⟩
theorem rolAcc : Statement .rolAcc := ⟨rfl, rfl⟩
theorem rolZp (nn : Byte) : Statement (.rolZp nn) := ⟨rfl, rfl⟩
theorem rolZpX (nn : Byte) : Statement (.rolZpX nn) := ⟨rfl, rfl⟩
theorem rolAbs (w : Word) : Statement (.rolAbs w) := ⟨rfl, rfl⟩
theorem rolAbsX (w : Word) : Statement (.rolAbsX w) := ⟨rfl, rfl⟩
theorem rorAcc : Statement .rorAcc := ⟨rfl, rfl⟩
theorem rorZp (nn : Byte) : Statement (.rorZp nn) := ⟨rfl, rfl⟩
theorem rorZpX (nn : Byte) : Statement (.rorZpX nn) := ⟨rfl, rfl⟩
theorem rorAbs (w : Word) : Statement (.rorAbs w) := ⟨rfl, rfl⟩
theorem rorAbsX (w : Word) : Statement (.rorAbsX w) := ⟨rfl, rfl⟩
theorem bpl (d : Byte) : Statement (.bpl d) := ⟨rfl, rfl⟩
theorem bmi (d : Byte) : Statement (.bmi d) := ⟨rfl, rfl⟩
theorem bvc (d : Byte) : Statement (.bvc d) := ⟨rfl, rfl⟩
theorem bvs (d : Byte) : Statement (.bvs d) := ⟨rfl, rfl⟩
theorem bcc (d : Byte) : Statement (.bcc d) := ⟨rfl, rfl⟩
theorem bcs (d : Byte) : Statement (.bcs d) := ⟨rfl, rfl⟩
theorem bne (d : Byte) : Statement (.bne d) := ⟨rfl, rfl⟩
theorem beq (d : Byte) : Statement (.beq d) := ⟨rfl, rfl⟩
theorem jmpAbs (w : Word) : Statement (.jmpAbs w) := ⟨rfl, rfl⟩
theorem jmpInd (w : Word) : Statement (.jmpInd w) := ⟨rfl, rfl⟩
theorem jsr (w : Word) : Statement (.jsr w) := ⟨rfl, rfl⟩
theorem rts : Statement .rts := ⟨rfl, rfl⟩
theorem rti : Statement .rti := ⟨rfl, rfl⟩
theorem brk : Statement .brk := ⟨rfl, rfl⟩
theorem pha : Statement .pha := ⟨rfl, rfl⟩
theorem php : Statement .php := ⟨rfl, rfl⟩
theorem pla : Statement .pla := ⟨rfl, rfl⟩
theorem plp : Statement .plp := ⟨rfl, rfl⟩
theorem clc : Statement .clc := ⟨rfl, rfl⟩
theorem sec : Statement .sec := ⟨rfl, rfl⟩
theorem cli : Statement .cli := ⟨rfl, rfl⟩
theorem sei : Statement .sei := ⟨rfl, rfl⟩
theorem clv : Statement .clv := ⟨rfl, rfl⟩
theorem cld : Statement .cld := ⟨rfl, rfl⟩
theorem sed : Statement .sed := ⟨rfl, rfl⟩
theorem tax : Statement .tax := ⟨rfl, rfl⟩
theorem tay : Statement .tay := ⟨rfl, rfl⟩
theorem txa : Statement .txa := ⟨rfl, rfl⟩
theorem tya : Statement .tya := ⟨rfl, rfl⟩
theorem tsx : Statement .tsx := ⟨rfl, rfl⟩
theorem txs : Statement .txs := ⟨rfl, rfl⟩
theorem nop : Statement .nop := ⟨rfl, rfl⟩
theorem illegal (b : Byte) : Statement (.illegal b) := ⟨rfl, rfl⟩

end Sys2Proof.Laws.EncodedLength
end

