-- ==== Sys2Proof/Tests/Slice0.lean ====
section
/-! SUPPORT. Tests of the model, and for every obligation with hypotheses a witness that meets them. The
expected results are the spec's: the vectors of spec/95_test_vectors.md, whose number ends a test's name
(`test_lda_LS_06` is V-LS-06), the examples of the instruction rules, and the tables of
spec/30_encoding.md. -/

namespace Sys2Proof.Tests

open Sys2Proof.Machine

/-! ### Helpers -/

/-- A machine at `pc` whose 16 KiB PRG-ROM holds the bytes `bs` from offset `off` on; every other register is as
after Reset with ac, x, y zero. -/
def rom (pc : Word) (off : Nat) (bs : List Byte) : State :=
  { State.reset with pc := pc, cart := { Cartridge.blank with prgRom := Memory.ofBytes off bs } }

/-- What is seen of the next state. -/
def after {α : Type} (f : State → α) : Host.Outcome State Fault Refusal → Option α
  | .next t => some (f t)
  | .fault _ => none
  | .refused _ => none

/-- The fault a step ends in. -/
def stopOf : Host.Outcome State Fault Refusal → Option Fault
  | .next _ => none
  | .fault f => some f
  | .refused _ => none

/-- The value an operation yields. -/
def valueOf {α : Type} : Except Fault α → Option α
  | .ok v => some v
  | .error _ => none

/-- The error an operation ends in. -/
def errorOf {α : Type} : Except Fault α → Option Fault
  | .ok _ => none
  | .error f => some f

/-- pc, the count, then ac, x, y, sp, sr and the RAM bytes at some offsets. -/
def regsAnd (offsets : List Nat) (t : State) : Word × Nat × List Byte :=
  (t.pc, t.cycles, [t.ac, t.x, t.y, t.sp, t.sr] ++ offsets.map (Memory.read t.ram))

/-- The bytes decode to the instruction and nothing is left. -/
def decodesTo (p : List Byte × Instr) : Bool :=
  match decode p.1 with
  | .ok (i, []) => decide (i = p.2)
  | _ => false

theorem ok_of_valueOf {α : Type} {e : Except Fault α} {v : α} (h : valueOf e = some v) : e = .ok v := by
  cases e with
  | ok w => rw [valueOf, Option.some.injEq] at h; rw [h]
  | error f => cases h

theorem exists_ok {α : Type} {e : Except Fault α} (h : (valueOf e).isSome = true) : ∃ v, e = .ok v := by
  cases e with
  | ok w => exact ⟨w, rfl⟩
  | error f => cases h

theorem exists_error {α : Type} {e : Except Fault α} (h : (errorOf e).isSome = true) :
    ∃ f, e = .error f := by
  cases e with
  | ok w => cases h
  | error f => exact ⟨f, rfl⟩

/-! ### Well-formedness -/

/-- An `illegal` instruction may not carry an opcode. -/
theorem test_wellFormed_refuses_opcode : (Instr.illegal 0xA9).wf = false := by decide

theorem test_wellFormed_illegal : (Instr.illegal 0x89).wf = true := by decide

theorem test_illegal_count : illegalBytes.length = 105 := by decide

/-! ### Decoding, one word for every constructor, from the matrix of R140 -/

/-- Row 0x of the matrix of R140. -/
def row0 : List (List Byte × Instr) := [
  ([0b00000000], .brk),
  ([0b00000001, 0x9C], .oraIndX 0x9C),
  ([0b00000101, 0x9C], .oraZp 0x9C),
  ([0b00000110, 0x9C], .aslZp 0x9C),
  ([0b00001000], .php),
  ([0b00001001, 0x9C], .oraImm 0x9C),
  ([0b00001010], .aslAcc),
  ([0b00001101, 0x34, 0x12], .oraAbs 0x1234),
  ([0b00001110, 0x34, 0x12], .aslAbs 0x1234)]

theorem test_decode_row0 : row0.all decodesTo = true := by
  decide

/-- Row 1x of the matrix of R140. -/
def row1 : List (List Byte × Instr) := [
  ([0b00010000, 0x9C], .bpl 0x9C),
  ([0b00010001, 0x9C], .oraIndY 0x9C),
  ([0b00010101, 0x9C], .oraZpX 0x9C),
  ([0b00010110, 0x9C], .aslZpX 0x9C),
  ([0b00011000], .clc),
  ([0b00011001, 0x34, 0x12], .oraAbsY 0x1234),
  ([0b00011101, 0x34, 0x12], .oraAbsX 0x1234),
  ([0b00011110, 0x34, 0x12], .aslAbsX 0x1234)]

theorem test_decode_row1 : row1.all decodesTo = true := by
  decide

/-- Row 2x of the matrix of R140. -/
def row2 : List (List Byte × Instr) := [
  ([0b00100000, 0x34, 0x12], .jsr 0x1234),
  ([0b00100001, 0x9C], .andIndX 0x9C),
  ([0b00100100, 0x9C], .bitZp 0x9C),
  ([0b00100101, 0x9C], .andZp 0x9C),
  ([0b00100110, 0x9C], .rolZp 0x9C),
  ([0b00101000], .plp),
  ([0b00101001, 0x9C], .andImm 0x9C),
  ([0b00101010], .rolAcc),
  ([0b00101100, 0x34, 0x12], .bitAbs 0x1234),
  ([0b00101101, 0x34, 0x12], .andAbs 0x1234),
  ([0b00101110, 0x34, 0x12], .rolAbs 0x1234)]

theorem test_decode_row2 : row2.all decodesTo = true := by
  decide

/-- Row 3x of the matrix of R140. -/
def row3 : List (List Byte × Instr) := [
  ([0b00110000, 0x9C], .bmi 0x9C),
  ([0b00110001, 0x9C], .andIndY 0x9C),
  ([0b00110101, 0x9C], .andZpX 0x9C),
  ([0b00110110, 0x9C], .rolZpX 0x9C),
  ([0b00111000], .sec),
  ([0b00111001, 0x34, 0x12], .andAbsY 0x1234),
  ([0b00111101, 0x34, 0x12], .andAbsX 0x1234),
  ([0b00111110, 0x34, 0x12], .rolAbsX 0x1234)]

theorem test_decode_row3 : row3.all decodesTo = true := by
  decide

/-- Row 4x of the matrix of R140. -/
def row4 : List (List Byte × Instr) := [
  ([0b01000000], .rti),
  ([0b01000001, 0x9C], .eorIndX 0x9C),
  ([0b01000101, 0x9C], .eorZp 0x9C),
  ([0b01000110, 0x9C], .lsrZp 0x9C),
  ([0b01001000], .pha),
  ([0b01001001, 0x9C], .eorImm 0x9C),
  ([0b01001010], .lsrAcc),
  ([0b01001100, 0x34, 0x12], .jmpAbs 0x1234),
  ([0b01001101, 0x34, 0x12], .eorAbs 0x1234),
  ([0b01001110, 0x34, 0x12], .lsrAbs 0x1234)]

theorem test_decode_row4 : row4.all decodesTo = true := by
  decide

/-- Row 5x of the matrix of R140. -/
def row5 : List (List Byte × Instr) := [
  ([0b01010000, 0x9C], .bvc 0x9C),
  ([0b01010001, 0x9C], .eorIndY 0x9C),
  ([0b01010101, 0x9C], .eorZpX 0x9C),
  ([0b01010110, 0x9C], .lsrZpX 0x9C),
  ([0b01011000], .cli),
  ([0b01011001, 0x34, 0x12], .eorAbsY 0x1234),
  ([0b01011101, 0x34, 0x12], .eorAbsX 0x1234),
  ([0b01011110, 0x34, 0x12], .lsrAbsX 0x1234)]

theorem test_decode_row5 : row5.all decodesTo = true := by
  decide

/-- Row 6x of the matrix of R140. -/
def row6 : List (List Byte × Instr) := [
  ([0b01100000], .rts),
  ([0b01100001, 0x9C], .adcIndX 0x9C),
  ([0b01100101, 0x9C], .adcZp 0x9C),
  ([0b01100110, 0x9C], .rorZp 0x9C),
  ([0b01101000], .pla),
  ([0b01101001, 0x9C], .adcImm 0x9C),
  ([0b01101010], .rorAcc),
  ([0b01101100, 0x34, 0x12], .jmpInd 0x1234),
  ([0b01101101, 0x34, 0x12], .adcAbs 0x1234),
  ([0b01101110, 0x34, 0x12], .rorAbs 0x1234)]

theorem test_decode_row6 : row6.all decodesTo = true := by
  decide

/-- Row 7x of the matrix of R140. -/
def row7 : List (List Byte × Instr) := [
  ([0b01110000, 0x9C], .bvs 0x9C),
  ([0b01110001, 0x9C], .adcIndY 0x9C),
  ([0b01110101, 0x9C], .adcZpX 0x9C),
  ([0b01110110, 0x9C], .rorZpX 0x9C),
  ([0b01111000], .sei),
  ([0b01111001, 0x34, 0x12], .adcAbsY 0x1234),
  ([0b01111101, 0x34, 0x12], .adcAbsX 0x1234),
  ([0b01111110, 0x34, 0x12], .rorAbsX 0x1234)]

theorem test_decode_row7 : row7.all decodesTo = true := by
  decide

/-- Row 8x of the matrix of R140. -/
def row8 : List (List Byte × Instr) := [
  ([0b10000001, 0x9C], .staIndX 0x9C),
  ([0b10000100, 0x9C], .styZp 0x9C),
  ([0b10000101, 0x9C], .staZp 0x9C),
  ([0b10000110, 0x9C], .stxZp 0x9C),
  ([0b10001000], .dey),
  ([0b10001010], .txa),
  ([0b10001100, 0x34, 0x12], .styAbs 0x1234),
  ([0b10001101, 0x34, 0x12], .staAbs 0x1234),
  ([0b10001110, 0x34, 0x12], .stxAbs 0x1234)]

theorem test_decode_row8 : row8.all decodesTo = true := by
  decide

/-- Row 9x of the matrix of R140. -/
def row9 : List (List Byte × Instr) := [
  ([0b10010000, 0x9C], .bcc 0x9C),
  ([0b10010001, 0x9C], .staIndY 0x9C),
  ([0b10010100, 0x9C], .styZpX 0x9C),
  ([0b10010101, 0x9C], .staZpX 0x9C),
  ([0b10010110, 0x9C], .stxZpY 0x9C),
  ([0b10011000], .tya),
  ([0b10011001, 0x34, 0x12], .staAbsY 0x1234),
  ([0b10011010], .txs),
  ([0b10011101, 0x34, 0x12], .staAbsX 0x1234)]

theorem test_decode_row9 : row9.all decodesTo = true := by
  decide

/-- Row Ax of the matrix of R140. -/
def rowA : List (List Byte × Instr) := [
  ([0b10100000, 0x9C], .ldyImm 0x9C),
  ([0b10100001, 0x9C], .ldaIndX 0x9C),
  ([0b10100010, 0x9C], .ldxImm 0x9C),
  ([0b10100100, 0x9C], .ldyZp 0x9C),
  ([0b10100101, 0x9C], .ldaZp 0x9C),
  ([0b10100110, 0x9C], .ldxZp 0x9C),
  ([0b10101000], .tay),
  ([0b10101001, 0x9C], .ldaImm 0x9C),
  ([0b10101010], .tax),
  ([0b10101100, 0x34, 0x12], .ldyAbs 0x1234),
  ([0b10101101, 0x34, 0x12], .ldaAbs 0x1234),
  ([0b10101110, 0x34, 0x12], .ldxAbs 0x1234)]

theorem test_decode_rowA : rowA.all decodesTo = true := by
  decide

/-- Row Bx of the matrix of R140. -/
def rowB : List (List Byte × Instr) := [
  ([0b10110000, 0x9C], .bcs 0x9C),
  ([0b10110001, 0x9C], .ldaIndY 0x9C),
  ([0b10110100, 0x9C], .ldyZpX 0x9C),
  ([0b10110101, 0x9C], .ldaZpX 0x9C),
  ([0b10110110, 0x9C], .ldxZpY 0x9C),
  ([0b10111000], .clv),
  ([0b10111001, 0x34, 0x12], .ldaAbsY 0x1234),
  ([0b10111010], .tsx),
  ([0b10111100, 0x34, 0x12], .ldyAbsX 0x1234),
  ([0b10111101, 0x34, 0x12], .ldaAbsX 0x1234),
  ([0b10111110, 0x34, 0x12], .ldxAbsY 0x1234)]

theorem test_decode_rowB : rowB.all decodesTo = true := by
  decide

/-- Row Cx of the matrix of R140. -/
def rowC : List (List Byte × Instr) := [
  ([0b11000000, 0x9C], .cpyImm 0x9C),
  ([0b11000001, 0x9C], .cmpIndX 0x9C),
  ([0b11000100, 0x9C], .cpyZp 0x9C),
  ([0b11000101, 0x9C], .cmpZp 0x9C),
  ([0b11000110, 0x9C], .decZp 0x9C),
  ([0b11001000], .iny),
  ([0b11001001, 0x9C], .cmpImm 0x9C),
  ([0b11001010], .dex),
  ([0b11001100, 0x34, 0x12], .cpyAbs 0x1234),
  ([0b11001101, 0x34, 0x12], .cmpAbs 0x1234),
  ([0b11001110, 0x34, 0x12], .decAbs 0x1234)]

theorem test_decode_rowC : rowC.all decodesTo = true := by
  decide

/-- Row Dx of the matrix of R140. -/
def rowD : List (List Byte × Instr) := [
  ([0b11010000, 0x9C], .bne 0x9C),
  ([0b11010001, 0x9C], .cmpIndY 0x9C),
  ([0b11010101, 0x9C], .cmpZpX 0x9C),
  ([0b11010110, 0x9C], .decZpX 0x9C),
  ([0b11011000], .cld),
  ([0b11011001, 0x34, 0x12], .cmpAbsY 0x1234),
  ([0b11011101, 0x34, 0x12], .cmpAbsX 0x1234),
  ([0b11011110, 0x34, 0x12], .decAbsX 0x1234)]

theorem test_decode_rowD : rowD.all decodesTo = true := by
  decide

/-- Row Ex of the matrix of R140. -/
def rowE : List (List Byte × Instr) := [
  ([0b11100000, 0x9C], .cpxImm 0x9C),
  ([0b11100001, 0x9C], .sbcIndX 0x9C),
  ([0b11100100, 0x9C], .cpxZp 0x9C),
  ([0b11100101, 0x9C], .sbcZp 0x9C),
  ([0b11100110, 0x9C], .incZp 0x9C),
  ([0b11101000], .inx),
  ([0b11101001, 0x9C], .sbcImm 0x9C),
  ([0b11101010], .nop),
  ([0b11101100, 0x34, 0x12], .cpxAbs 0x1234),
  ([0b11101101, 0x34, 0x12], .sbcAbs 0x1234),
  ([0b11101110, 0x34, 0x12], .incAbs 0x1234)]

theorem test_decode_rowE : rowE.all decodesTo = true := by
  decide

/-- Row Fx of the matrix of R140. -/
def rowF : List (List Byte × Instr) := [
  ([0b11110000, 0x9C], .beq 0x9C),
  ([0b11110001, 0x9C], .sbcIndY 0x9C),
  ([0b11110101, 0x9C], .sbcZpX 0x9C),
  ([0b11110110, 0x9C], .incZpX 0x9C),
  ([0b11111000], .sed),
  ([0b11111001, 0x34, 0x12], .sbcAbsY 0x1234),
  ([0b11111101, 0x34, 0x12], .sbcAbsX 0x1234),
  ([0b11111110, 0x34, 0x12], .incAbsX 0x1234)]

theorem test_decode_rowF : rowF.all decodesTo = true := by
  decide

/-! ### One step: the registers after it, RAM where it was written, or the error -/

theorem test_lda_LS_06 :
    after (regsAnd []) (step { rom 0x8000 0x0 [0xB1, 0x40] with y := 0x10, ram := [(0x40, 0xF0), (0x41, 0x02), (0x300, 0x5C)] }) =
      some (0x8002, 6, [0x5C, 0x00, 0x10, 0xFD, 0x34]) := by
  decide

theorem test_lda_LS_08 :
    after (regsAnd []) (step { rom 0x8000 0x0 [0xBD, 0xFF, 0x20] with ac := 0x11, x := 0x01 }) =
      some (0x8003, 5, [0x00, 0x01, 0x00, 0xFD, 0x36]) := by
  decide

theorem test_ldx_LS_10 :
    after (regsAnd []) (step (rom 0x8000 0x0 [0xA2, 0x05])) =
      some (0x8002, 2, [0x00, 0x05, 0x00, 0xFD, 0x34]) := by
  decide

theorem test_ldx_LS_12 :
    after (regsAnd []) (step { rom 0x8000 0x0 [0xBE, 0xFF, 0x02] with y := 0x01, ram := [(0x300, 0xFF)] }) =
      some (0x8003, 5, [0x00, 0xFF, 0x01, 0xFD, 0xB4]) := by
  decide

theorem test_ldy_LS_13 :
    after (regsAnd []) (step { rom 0x8000 0x0 [0xA0, 0x00] with y := 0x09 }) =
      some (0x8002, 2, [0x00, 0x00, 0x00, 0xFD, 0x36]) := by
  decide

theorem test_ldy_LS_14 :
    after (regsAnd []) (step { rom 0x8000 0x0 [0xBC, 0x00, 0x03] with x := 0xFF, ram := [(0x3FF, 0x01)] }) =
      some (0x8003, 4, [0x00, 0xFF, 0x01, 0xFD, 0x34]) := by
  decide

theorem test_sta_LS_16 :
    after (regsAnd [0x200]) (step { rom 0x8000 0x0 [0x8D, 0x00, 0x0A] with ac := 0x42 }) =
      some (0x8003, 4, [0x42, 0x00, 0x00, 0xFD, 0x34, 0x42]) := by
  decide

theorem test_sta_LS_21 : stopOf (step { rom 0x8000 0x0 [0x8D, 0x14, 0x40] with ac := 0x02 }) = some (.addressOutOfRange 0x4014 .one) := by
  decide

theorem test_stx_LS_23 :
    after (regsAnd [0x0]) (step { rom 0x8000 0x0 [0x96, 0xFF] with x := 0x07, y := 0x01 }) =
      some (0x8002, 4, [0x00, 0x07, 0x01, 0xFD, 0x34, 0x07]) := by
  decide

theorem test_sty_LS_24 :
    after (regsAnd [0x234]) (step { rom 0x8000 0x0 [0x8C, 0x34, 0x12] with y := 0xAA }) =
      some (0x8003, 4, [0x00, 0x00, 0xAA, 0xFD, 0x34, 0xAA]) := by
  decide

theorem test_sty_LS_25 :
    after (regsAnd [0x8]) (step { rom 0x8000 0x0 [0x94, 0x10] with x := 0xF8, y := 0xAA }) =
      some (0x8002, 4, [0x00, 0xF8, 0xAA, 0xFD, 0x34, 0xAA]) := by
  decide

theorem test_adc_AR_04 :
    after (regsAnd []) (step { rom 0x8000 0x0 [0x69, 0x50] with ac := 0x50 }) =
      some (0x8002, 2, [0xA0, 0x00, 0x00, 0xFD, 0xF4]) := by
  decide

theorem test_adc_AR_09 :
    after (regsAnd []) (step { rom 0x8000 0x0 [0x69, 0x09] with ac := 0x09, sr := 0x3C }) =
      some (0x8002, 2, [0x12, 0x00, 0x00, 0xFD, 0x3C]) := by
  decide

theorem test_sbc_AR_12 :
    after (regsAnd []) (step { rom 0x8000 0x0 [0xE9, 0x01] with ac := 0x05, sr := 0x34 }) =
      some (0x8002, 2, [0x03, 0x00, 0x00, 0xFD, 0x35]) := by
  decide

theorem test_sbc_AR_14 :
    after (regsAnd []) (step { rom 0x8000 0x0 [0xE9, 0x01] with ac := 0x80, sr := 0x35 }) =
      some (0x8002, 2, [0x7F, 0x00, 0x00, 0xFD, 0x75]) := by
  decide

theorem test_cmp_AR_20 :
    after (regsAnd []) (step { rom 0x8000 0x0 [0xC9, 0x10] with ac := 0x20, sr := 0xF4 }) =
      some (0x8002, 2, [0x20, 0x00, 0x00, 0xFD, 0x75]) := by
  decide

theorem test_cmp_AR_21 :
    after (regsAnd []) (step { rom 0x8000 0x0 [0xC9, 0x01] with ac := 0x81 }) =
      some (0x8002, 2, [0x81, 0x00, 0x00, 0xFD, 0xB5]) := by
  decide

theorem test_cpx_AR_23 :
    after (regsAnd []) (step { rom 0x8000 0x0 [0xE0, 0x05] with x := 0x05 }) =
      some (0x8002, 2, [0x00, 0x05, 0x00, 0xFD, 0x37]) := by
  decide

theorem test_cpx_AR_24 :
    after (regsAnd []) (step { rom 0x8000 0x0 [0xE4, 0x10] with x := 0x00, ram := [(0x10, 0x01)] }) =
      some (0x8002, 3, [0x00, 0x00, 0x00, 0xFD, 0xB4]) := by
  decide

theorem test_cpy_AR_25 :
    after (regsAnd []) (step { rom 0x8000 0x0 [0xC0, 0x00] with y := 0x80 }) =
      some (0x8002, 2, [0x00, 0x00, 0x80, 0xFD, 0xB5]) := by
  decide

theorem test_cpy_AR_26 :
    after (regsAnd []) (step { rom 0x8000 0x0 [0xCC, 0x00, 0x02] with y := 0x7F, ram := [(0x200, 0x80)] }) =
      some (0x8003, 4, [0x00, 0x00, 0x7F, 0xFD, 0xB4]) := by
  decide

theorem test_inc_AR_29 :
    after (regsAnd [0x300]) (step { rom 0x8000 0x0 [0xFE, 0xFF, 0x02] with x := 0x01 }) =
      some (0x8003, 7, [0x00, 0x01, 0x00, 0xFD, 0x34, 0x01]) := by
  decide

theorem test_inc_AR_30 :
    after (regsAnd []) (step (rom 0x8000 0x0 [0xEE, 0x00, 0x80])) =
      some (0x8003, 6, [0x00, 0x00, 0x00, 0xFD, 0xB4]) := by
  decide

theorem test_inx_AR_31 :
    after (regsAnd []) (step { rom 0x8000 0x0 [0xE8] with x := 0xFF }) =
      some (0x8001, 2, [0x00, 0x00, 0x00, 0xFD, 0x36]) := by
  decide

theorem test_iny_AR_33 :
    after (regsAnd []) (step { rom 0x8000 0x0 [0xC8] with y := 0x00 }) =
      some (0x8001, 2, [0x00, 0x00, 0x01, 0xFD, 0x34]) := by
  decide

theorem test_dec_AR_34 :
    after (regsAnd [0x10]) (step (rom 0x8000 0x0 [0xC6, 0x10])) =
      some (0x8002, 5, [0x00, 0x00, 0x00, 0xFD, 0xB4, 0xFF]) := by
  decide

theorem test_dex_AR_37 :
    after (regsAnd []) (step { rom 0x8000 0x0 [0xCA] with x := 0x01 }) =
      some (0x8001, 2, [0x00, 0x00, 0x00, 0xFD, 0x36]) := by
  decide

theorem test_dey_AR_38 :
    after (regsAnd []) (step { rom 0x8000 0x0 [0x88] with y := 0x80 }) =
      some (0x8001, 2, [0x00, 0x00, 0x7F, 0xFD, 0x34]) := by
  decide

theorem test_and_LG_01 :
    after (regsAnd []) (step { rom 0x8000 0x0 [0x29, 0x0F] with ac := 0xF0 }) =
      some (0x8002, 2, [0x00, 0x00, 0x00, 0xFD, 0x36]) := by
  decide

theorem test_and_LG_03 :
    after (regsAnd []) (step { rom 0x8000 0x0 [0x3D, 0xFF, 0x02] with ac := 0xFF, x := 0x01, ram := [(0x300, 0x3C)] }) =
      some (0x8003, 5, [0x3C, 0x01, 0x00, 0xFD, 0x34]) := by
  decide

theorem test_ora_LG_04 :
    after (regsAnd []) (step { rom 0x8000 0x0 [0x09, 0x80] with ac := 0x01 }) =
      some (0x8002, 2, [0x81, 0x00, 0x00, 0xFD, 0xB4]) := by
  decide

theorem test_eor_LG_06 :
    after (regsAnd []) (step { rom 0x8000 0x0 [0x49, 0xFF] with ac := 0x0F }) =
      some (0x8002, 2, [0xF0, 0x00, 0x00, 0xFD, 0xB4]) := by
  decide

theorem test_bit_LG_09 :
    after (regsAnd []) (step { rom 0x8000 0x0 [0x24, 0x10] with ac := 0xFF, sr := 0xF4, ram := [(0x10, 0x3F)] }) =
      some (0x8002, 3, [0xFF, 0x00, 0x00, 0xFD, 0x34]) := by
  decide

theorem test_bit_LG_10 :
    after (regsAnd []) (step { rom 0x8000 0x0 [0x2C, 0x02, 0x20] with ac := 0xFF, sr := 0xF4 }) =
      some (0x8003, 4, [0xFF, 0x00, 0x00, 0xFD, 0x36]) := by
  decide

theorem test_asl_SH_03 :
    after (regsAnd []) (step { rom 0x8000 0x0 [0x0A] with ac := 0x40, sr := 0x35 }) =
      some (0x8001, 2, [0x80, 0x00, 0x00, 0xFD, 0xB4]) := by
  decide

theorem test_asl_SH_05 :
    after (regsAnd [0x300]) (step { rom 0x8000 0x0 [0x1E, 0xFF, 0x02] with x := 0x01, ram := [(0x300, 0x01)] }) =
      some (0x8003, 7, [0x00, 0x01, 0x00, 0xFD, 0x34, 0x02]) := by
  decide

theorem test_lsr_SH_07 :
    after (regsAnd []) (step { rom 0x8000 0x0 [0x4A] with ac := 0x80, sr := 0xB5 }) =
      some (0x8001, 2, [0x40, 0x00, 0x00, 0xFD, 0x34]) := by
  decide

theorem test_rol_SH_11 :
    after (regsAnd []) (step { rom 0x8000 0x0 [0x2A] with ac := 0xFF, sr := 0x35 }) =
      some (0x8001, 2, [0xFF, 0x00, 0x00, 0xFD, 0xB5]) := by
  decide

theorem test_rol_SH_12 :
    after (regsAnd [0x10]) (step { rom 0x8000 0x0 [0x26, 0x10] with sr := 0x35 }) =
      some (0x8002, 5, [0x00, 0x00, 0x00, 0xFD, 0x34, 0x01]) := by
  decide

theorem test_ror_SH_15 :
    after (regsAnd []) (step { rom 0x8000 0x0 [0x6A] with ac := 0x00, sr := 0x35 }) =
      some (0x8001, 2, [0x80, 0x00, 0x00, 0xFD, 0xB4]) := by
  decide

theorem test_ror_SH_16 :
    after (regsAnd [0x200]) (step { rom 0x8000 0x0 [0x6E, 0x00, 0x02] with sr := 0x34, ram := [(0x200, 0xFE)] }) =
      some (0x8003, 6, [0x00, 0x00, 0x00, 0xFD, 0x34, 0x7F]) := by
  decide

theorem test_bpl_BR_01 :
    after (regsAnd []) (step { rom 0x8000 0x0 [0x10, 0x04] with sr := 0x34 }) =
      some (0x8006, 3, [0x00, 0x00, 0x00, 0xFD, 0x34]) := by
  decide

theorem test_bpl_BR_23 :
    after (regsAnd []) (step { rom 0xBFF0 0x3FF0 [0x10, 0x20] with sr := 0x34 }) =
      some (0xC012, 4, [0x00, 0x00, 0x00, 0xFD, 0x34]) := by
  decide

theorem test_bmi_BR_08 :
    after (regsAnd []) (step { rom 0x8000 0x0 [0x30, 0x10] with sr := 0xB4 }) =
      some (0x8012, 3, [0x00, 0x00, 0x00, 0xFD, 0xB4]) := by
  decide

theorem test_bvc_BR_11 :
    after (regsAnd []) (step { rom 0x8000 0x0 [0x50, 0x10] with sr := 0x74 }) =
      some (0x8002, 2, [0x00, 0x00, 0x00, 0xFD, 0x74]) := by
  decide

theorem test_bvs_BR_12 :
    after (regsAnd []) (step { rom 0x8000 0x0 [0x70, 0x10] with sr := 0x74 }) =
      some (0x8012, 3, [0x00, 0x00, 0x00, 0xFD, 0x74]) := by
  decide

theorem test_bcc_BR_24 :
    after (regsAnd []) (step { rom 0x07F8 0 [] with sr := 0x34, ram := [(0xA, 0xEA), (0x7F8, 0x90), (0x7F9, 0x10)] }) =
      some (0x080A, 4, [0x00, 0x00, 0x00, 0xFD, 0x34]) := by
  decide

theorem test_bcs_BR_16 :
    after (regsAnd []) (step { rom 0x8000 0x0 [0xB0, 0x10] with sr := 0x35 }) =
      some (0x8012, 3, [0x00, 0x00, 0x00, 0xFD, 0x35]) := by
  decide

theorem test_bne_BR_07 : stopOf (step { rom 0x8000 0x0 [0xD0, 0x80] with sr := 0x36 }) = some (.addressOutOfRange 0x7F82 .one) := by
  decide

theorem test_bne_BR_20 :
    after (regsAnd []) (step { rom 0x8100 0x100 [0xD0, 0xFC] with sr := 0x34 }) =
      some (0x80FE, 4, [0x00, 0x00, 0x00, 0xFD, 0x34]) := by
  decide

theorem test_beq_BR_22 :
    after (regsAnd []) (step { rom 0x8080 0x80 [0xF0, 0x7E] with sr := 0x36 }) =
      some (0x8100, 4, [0x00, 0x00, 0x00, 0xFD, 0x36]) := by
  decide

theorem test_jmp_JP_02 :
    after (regsAnd []) (step { rom 0x8000 0x0 [0x6C, 0x00, 0x02] with ram := [(0x200, 0x78), (0x201, 0x86)] }) =
      some (0x8678, 5, [0x00, 0x00, 0x00, 0xFD, 0x34]) := by
  decide

theorem test_jmp_JP_03 : stopOf (step (rom 0x8000 0x0 [0x4C, 0x00, 0x40])) = some (.addressOutOfRange 0x4000 .one) := by
  decide

theorem test_jsr_JP_06 :
    after (regsAnd [0x1FE, 0x1FF]) (step { rom 0x8003 0x3 [0x20, 0x10, 0x80] with sp := 0xFF }) =
      some (0x8010, 6, [0x00, 0x00, 0x00, 0xFD, 0x34, 0x05, 0x80]) := by
  decide

theorem test_jsr_JP_07 :
    after (regsAnd [0x100, 0x1FF]) (step { rom 0x8000 0x0 [0x20, 0x10, 0x80] with sp := 0x00 }) =
      some (0x8010, 6, [0x00, 0x00, 0x00, 0xFE, 0x34, 0x80, 0x02]) := by
  decide

theorem test_rts_JP_08 :
    after (regsAnd []) (step { rom 0x8010 0x10 [0x60] with sp := 0xFD, ram := [(0x1FE, 0x05), (0x1FF, 0x80)] }) =
      some (0x8006, 6, [0x00, 0x00, 0x00, 0xFF, 0x34]) := by
  decide

theorem test_rts_JP_09 :
    after (regsAnd []) (step { rom 0x8000 0x0 [0x60] with sp := 0xFF, ram := [(0x100, 0xFF), (0x101, 0xFF)] }) =
      some (0x0000, 6, [0x00, 0x00, 0x00, 0x01, 0x34]) := by
  decide

theorem test_rti_JP_10 :
    after (regsAnd []) (step { rom 0x8000 0x0 [0x40] with sp := 0xFC, sr := 0x34, ram := [(0x1FD, 0xC3), (0x1FE, 0x34), (0x1FF, 0x12)] }) =
      some (0x1234, 6, [0x00, 0x00, 0x00, 0xFF, 0xF3]) := by
  decide

theorem test_pha_ST_02 :
    after (regsAnd [0x100]) (step { rom 0x8000 0x0 [0x48] with ac := 0x42, sp := 0x00 }) =
      some (0x8001, 3, [0x42, 0x00, 0x00, 0xFF, 0x34, 0x42]) := by
  decide

theorem test_php_ST_04 :
    after (regsAnd [0x1FD]) (step { rom 0x8000 0x0 [0x08] with sr := 0x81 }) =
      some (0x8001, 3, [0x00, 0x00, 0x00, 0xFC, 0x81, 0xB1]) := by
  decide

theorem test_pla_ST_07 :
    after (regsAnd []) (step { rom 0x8000 0x0 [0x68] with ac := 0x55, sp := 0xFF }) =
      some (0x8001, 4, [0x00, 0x00, 0x00, 0x00, 0x36]) := by
  decide

theorem test_plp_ST_10 :
    after (regsAnd []) (step { rom 0x8000 0x0 [0x28] with sp := 0xFC, sr := 0x04, ram := [(0x1FD, 0xFF)] }) =
      some (0x8001, 4, [0x00, 0x00, 0x00, 0xFD, 0xCF]) := by
  decide

theorem test_clc_FL_01 :
    after (regsAnd []) (step { rom 0x8000 0x0 [0x18] with sr := 0xFF }) =
      some (0x8001, 2, [0x00, 0x00, 0x00, 0xFD, 0xFE]) := by
  decide

theorem test_sec_FL_02 :
    after (regsAnd []) (step { rom 0x8000 0x0 [0x38] with sr := 0x34 }) =
      some (0x8001, 2, [0x00, 0x00, 0x00, 0xFD, 0x35]) := by
  decide

theorem test_cli_FL_03 :
    after (regsAnd []) (step { rom 0x8000 0x0 [0x58] with sr := 0x34 }) =
      some (0x8001, 2, [0x00, 0x00, 0x00, 0xFD, 0x30]) := by
  decide

theorem test_sei_FL_04 :
    after (regsAnd []) (step { rom 0x8000 0x0 [0x78] with sr := 0x30 }) =
      some (0x8001, 2, [0x00, 0x00, 0x00, 0xFD, 0x34]) := by
  decide

theorem test_clv_FL_05 :
    after (regsAnd []) (step { rom 0x8000 0x0 [0xB8] with sr := 0xFF }) =
      some (0x8001, 2, [0x00, 0x00, 0x00, 0xFD, 0xBF]) := by
  decide

theorem test_cld_FL_06 :
    after (regsAnd []) (step { rom 0x8000 0x0 [0xD8] with sr := 0xFF }) =
      some (0x8001, 2, [0x00, 0x00, 0x00, 0xFD, 0xF7]) := by
  decide

theorem test_sed_FL_07 :
    after (regsAnd []) (step { rom 0x8000 0x0 [0xF8] with sr := 0x34 }) =
      some (0x8001, 2, [0x00, 0x00, 0x00, 0xFD, 0x3C]) := by
  decide

theorem test_tax_TR_01 :
    after (regsAnd []) (step { rom 0x8000 0x0 [0xAA] with ac := 0x80 }) =
      some (0x8001, 2, [0x80, 0x80, 0x00, 0xFD, 0xB4]) := by
  decide

theorem test_tay_TR_02 :
    after (regsAnd []) (step { rom 0x8000 0x0 [0xA8] with ac := 0x00, y := 0x33 }) =
      some (0x8001, 2, [0x00, 0x00, 0x00, 0xFD, 0x36]) := by
  decide

theorem test_txa_TR_03 :
    after (regsAnd []) (step { rom 0x8000 0x0 [0x8A] with x := 0x7F, sr := 0xB6 }) =
      some (0x8001, 2, [0x7F, 0x7F, 0x00, 0xFD, 0x34]) := by
  decide

theorem test_tya_TR_04 :
    after (regsAnd []) (step { rom 0x8000 0x0 [0x98] with y := 0xFF }) =
      some (0x8001, 2, [0xFF, 0x00, 0xFF, 0xFD, 0xB4]) := by
  decide

theorem test_tsx_TR_05 :
    after (regsAnd []) (step (rom 0x8000 0x0 [0xBA])) =
      some (0x8001, 2, [0x00, 0xFD, 0x00, 0xFD, 0xB4]) := by
  decide

theorem test_txs_TR_06 :
    after (regsAnd []) (step { rom 0x8000 0x0 [0x9A] with x := 0x00, sr := 0xB4 }) =
      some (0x8001, 2, [0x00, 0x00, 0x00, 0x00, 0xB4]) := by
  decide

theorem test_nop_TR_08 :
    after (regsAnd []) (step (rom 0x8000 0x0 [0xEA])) =
      some (0x8001, 2, [0x00, 0x00, 0x00, 0xFD, 0x34]) := by
  decide

theorem test_illegal_TR_09 : stopOf (step (rom 0x8000 0x0 [0x1A])) = some (.illegalOpcode 0x8000 0x1A) := by
  decide

/-- The example of R267 (canonical; log 1). -/
theorem test_brk_R267 :
    after (regsAnd [0x1FF, 0x1FE, 0x1FD])
        (step { rom 0x8000 0 [0x00] with
          sp := 0xFF, cart := { Cartridge.blank with prgRom := Memory.ofBytes 0x3FFE [0x00, 0x90] } }) =
      some (0x9000, 7, [0x00, 0x00, 0x00, 0xFC, 0x34, 0x80, 0x02, 0x34]) := by
  decide

/-- V-EX-02. -/
theorem test_fetch_EX_02 :
    stopOf (step { State.reset with pc := 0x4000 }) = some (.addressOutOfRange 0x4000 .one) := by
  decide

/-- V-DE-28: the 16-bit operand read meets the end of RAM. -/
theorem test_fetch_DE_28 :
    stopOf (step { State.reset with pc := 0x07FE, ram := [(0x7FE, 0xAD)] }) =
      some (.addressOutOfRange 0x07FF .two) := by
  decide

/-- withFetchWord places an instruction where the next step fetches it. -/
theorem test_withFetchWord :
    after (regsAnd []) (step (State.reset.withFetchWord 16 0x05A2)) =
      some (0x0002, 2, [0x00, 0x05, 0x00, 0xFD, 0x34]) := by
  decide

/-! ### Records of the decoder -/

/-- V-DE-10: the indexed address wraps at 0xFFFF. -/
theorem test_decode_DE_10 :
    valueOf (decodeAt 0x8000 { rom 0x8000 0 [0xB9, 0xFF, 0xFF] with y := 0x02, ram := [(1, 0x66)] }) =
      some { mnemonic := .LDA, mode := .absy, cycles := 4, length := 3, pagePenalty := true,
             relFixup := false, addr := some 0x0001, val := some 0x66, base := some 0xFFFF } := by
  decide

/-- V-DE-15: the pointer's second byte is read at 0x0000. -/
theorem test_decode_DE_15 :
    valueOf (decodeAt 0x8000 { rom 0x8000 0 [0xA1, 0xFE] with
        x := 0x01, ram := [(0, 0x02), (0xFF, 0x10), (0x210, 0x5B)] }) =
      some { mnemonic := .LDA, mode := .indx, cycles := 6, length := 2, pagePenalty := false,
             relFixup := false, addr := some 0x0210, val := some 0x5B, base := none } := by
  decide

/-- V-DE-12: the jump through a pointer. -/
theorem test_decode_DE_12 :
    (valueOf (decodeAt 0x8000 { State.reset with
        ram := [(0x200, 0x78), (0x201, 0x86)],
        cart := { Cartridge.blank with prgRom := [(0, 0x6C), (2, 0x02), (0x678, 0xEA)] } })).map
      (fun op => (op.cycles, op.addr, op.val, op.base)) = some (5, some 0x8678, some 0xEA, none) := by
  decide

/-- V-EX-06: one error ends a lookahead. -/
theorem test_decodeN_EX_06 :
    errorOf (decodeN 3 0x8000 (rom 0x8000 0 [0xA9, 0x01, 0x02, 0xEA])) =
      some (.illegalOpcode 0x8002 0x02) := by
  decide

/-- V-EX-07: the lengths of a lookahead. -/
theorem test_decodeN_EX_07 :
    (valueOf (decodeN 3 0x8000 (rom 0x8000 0 [0xA9, 0x01, 0x85, 0x10, 0xEA]))).map
      (List.map DecodedOp.length) = some [2, 2, 1] := by
  decide

/-! ### Bus, loader, reset -/

/-- V-BUS-01 and E4: a store is seen at every mirror. -/
theorem test_bus_BUS_01 :
    ((valueOf (memWrite1 0x07FF 0x11 State.reset)).bind fun t => valueOf (memRead1 0x1FFF t)) =
      some 0x11 := by
  decide

/-- V-BUS-02: 16-bit stores are little-endian. -/
theorem test_bus_BUS_02 :
    ((valueOf (memWrite2 0x0000 0x1234 State.reset)).map fun t =>
      (valueOf (memRead1 0x0800 t), valueOf (memRead1 0x0801 t))) = some (some 0x34, some 0x12) := by
  decide

/-- V-BUS-12. -/
theorem test_bus_BUS_12 :
    errorOf (memRead2 0xBFFF State.reset) = some (.addressOutOfRange 0xBFFF .two) ∧
      errorOf (memRead2 0xFFFF State.reset) = some (.addressOutOfRange 0xFFFF .two) := by
  decide

/-- A cartridge with PRG-RAM. -/
def withRam : State := { State.reset with cart := { Cartridge.blank with prgRam := some [] } }

/-- V-BUS-16 and V-BUS-17. -/
theorem test_bus_BUS_16 :
    ((valueOf (memWrite1 0x6000 0x77 withRam)).bind fun t => valueOf (memRead1 0x6000 t)) = some 0x77 ∧
      errorOf (memRead1 0x5FFF withRam) = some (.addressOutOfRange 0x5FFF .one) := by
  decide

/-- A 16-byte header with PRG units, CHR units and flag byte. -/
def header (prg chr flags : Byte) : List Byte :=
  [0x4E, 0x45, 0x53, 0x1A, prg, chr, flags, 0, 0, 0, 0, 0, 0, 0, 0, 0]

/-- V-LD-16: the mapper is checked before the length. -/
theorem test_load_LD_16 :
    errorOf (loadCartridge false (header 1 1 0x10)) = some (.unsupportedMapper 1) := by
  decide

/-- V-LD-15: the magic bytes are checked before the mapper. -/
theorem test_load_LD_15 :
    errorOf (loadCartridge false ([0x4E, 0x45, 0x53, 0x00] ++ (header 1 1 0x10).drop 4)) =
      some .malformedHeader := by
  decide

/-- V-LD-09. -/
theorem test_load_LD_09 :
    errorOf (loadCartridge false ((header 1 1 0).take 15)) = some .malformedHeader := by
  decide

/-- V-LD-13: an image without PRG-ROM loads, and Reset then fails (V-RS-03). -/
theorem test_load_LD_13 :
    (valueOf (loadCartridge false (header 0 0 0))).map (fun c => (c.prgLen, c.chrLen)) = some (0, 0) ∧
      errorOf (boot false (header 0 0 0)) = some (.addressOutOfRange 0xFFFC .two) := by
  decide

/-- An image with a header and no data is too short. -/
theorem test_load_truncated :
    errorOf (loadCartridge false (header 1 0 0)) = some .truncatedImage := by
  decide

/-- V-RS-04: Reset keeps the accumulator. -/
theorem test_reset_RS_04 :
    (valueOf (resetMachine { rom 0x1234 0x3FFC [0x00, 0x80] with sp := 0x10, sr := 0xC1, ac := 0x77 })).map
      (regsAnd []) = some (0x8000, 0, [0x77, 0x00, 0x00, 0xFD, 0x34]) := by
  decide

/-! ### Witnesses: concrete values that meet the hypotheses of each obligation -/

/-- An operand record is what a statement's `resolvesTo` asks for. -/
abbrev HasRecord (i : Instr) (mn : Mnemonic) (s : State) : Prop :=
  ∃ op m, resolvesTo i mn s op ∧ op.val = some m

/-- An instruction of mnemonic `mn` that answers a next state. -/
abbrev Answering (i : Instr) (mn : Mnemonic) (s : State) : Prop :=
  ∃ o t, i.form = some (mn, o) ∧ exec i s = .next t

theorem witness_DecodeInvertsEncode :
    (Instr.illegal 0x02).wf = true ∧ (Instr.jmpInd 0xFFFF).wf = true := by decide

theorem witness_EncodeInvertsDecode :
    (∃ i, decode [0xA9, 0xFF] = .ok (i, [])) ∧ (∃ i, decode [0xFF, 0x01] = .ok (i, [0x01])) :=
  ⟨⟨_, rfl⟩, ⟨_, rfl⟩⟩

theorem witness_MatrixGivesEveryOpcode :
    ∃ r ∈ decodeMatrix, r.opcode = 0xFE ∧ r.mnemonic = .INC := by
  refine ⟨⟨0xFE, .INC, .absx, 3, 7, false⟩, ?_, rfl, rfl⟩
  simp [decodeMatrix, matrixRowsF]

theorem witness_PenaltyAndFixupForms :
    (∃ o, (Instr.ldaAbsX 0).form = some (.LDA, o) ∧ pagePenalty .LDA o.mode = true) ∧
      (∃ o, (Instr.bne 0).form = some (.BNE, o) ∧ relFixup o.mode = true) :=
  ⟨⟨_, rfl, rfl⟩, ⟨_, rfl, rfl⟩⟩

theorem witness_IllegalBytesFault :
    (0x89 : Byte) ∈ illegalBytes ∧ memRead1 0x8000 (rom 0x8000 0 [0x89]) = .ok 0x89 ∧
      (0x8000 : Word) = (rom 0x8000 0 [0x89]).pc :=
  ⟨by decide, ok_of_valueOf (by decide), rfl⟩

theorem witness_AbsoluteOperandsResolve :
    memRead1 0x07FF State.reset = .ok 0 ∧
      ((0x0001 : Word).toNat = ((0xFFFF : Word).toNat + ({ State.reset with x := 2 } : State).x.toNat) % 65536 ∧
        memRead1 0x0001 { State.reset with x := 2 } = .ok 0) ∧
      ((0x2100 : Word).toNat = ((0x20FF : Word).toNat + ({ State.reset with y := 1 } : State).y.toNat) % 65536 ∧
        memRead1 0x2100 { State.reset with y := 1 } = .ok 0) ∧
      (∃ f, memRead1 0x4014 State.reset = .error f) ∧
      ((0x4000 : Word).toNat = ((0x3FFF : Word).toNat + ({ State.reset with x := 1 } : State).x.toNat) % 65536 ∧
        ∃ f, memRead1 0x4000 { State.reset with x := 1 } = .error f) ∧
      ((0x7FFF : Word).toNat = ((0x7FFF : Word).toNat + State.reset.y.toNat) % 65536 ∧
        ∃ f, memRead1 0x7FFF State.reset = .error f) :=
  ⟨rfl, ⟨rfl, rfl⟩, ⟨rfl, rfl⟩, exists_error (by decide), ⟨rfl, exists_error (by decide)⟩,
    ⟨rfl, exists_error (by decide)⟩⟩

theorem witness_IndirectOperandsResolve :
    (∃ (s : State) (p p' : Word) (nn lo hi v : Byte), p.toNat = (nn.toNat + s.x.toNat) % 256 ∧
      p'.toNat = (nn.toNat + s.x.toNat + 1) % 256 ∧ memRead1 p s = .ok lo ∧ memRead1 p' s = .ok hi ∧
      memRead1 (wordOf hi lo) s = .ok v) ∧
    (∃ (s : State) (p p' ea : Word) (nn lo hi v : Byte), p.toNat = nn.toNat ∧
      p'.toNat = (nn.toNat + 1) % 256 ∧ ea.toNat = ((wordOf hi lo).toNat + s.y.toNat) % 65536 ∧
      memRead1 p s = .ok lo ∧ memRead1 p' s = .ok hi ∧ memRead1 ea s = .ok v) ∧
    (∃ (s : State) (p p' ea : Word) (nn lo hi : Byte), p.toNat = (nn.toNat + s.x.toNat) % 256 ∧
      p.toNat = nn.toNat ∧ p'.toNat = (nn.toNat + s.x.toNat + 1) % 256 ∧ p'.toNat = (nn.toNat + 1) % 256 ∧
      ea.toNat = ((wordOf hi lo).toNat + s.y.toNat) % 65536 ∧ memRead1 p s = .ok lo ∧
      memRead1 p' s = .ok hi ∧ (∃ f, memRead1 (wordOf hi lo) s = .error f) ∧
      ∃ f, memRead1 ea s = .error f) :=
  ⟨⟨{ State.reset with x := 1 }, 0xFF, 0x00, 0xFE, 0, 0, 0, rfl, rfl, rfl, rfl, rfl⟩,
    ⟨{ State.reset with y := 0xFF }, 0xFF, 0x00, 0x00FF, 0xFF, 0, 0, 0, rfl, rfl, rfl, rfl, rfl, rfl⟩,
    ⟨{ State.reset with ram := [(0x00, 0x40)] }, 0xFF, 0x00, 0x4000, 0xFF, 0x00, 0x40, rfl, rfl, rfl, rfl,
      rfl, ok_of_valueOf (by decide), ok_of_valueOf (by decide), exists_error (by decide),
      exists_error (by decide)⟩⟩

/-- A state in which JMP (0x02FF) finds its target within the page at 0x9078 and straight on at 0x8678, the
bytes of V-DE-13; the JMP stands at 0x0000. -/
def pageEnd : State :=
  { State.reset with ram := [(0, 0x6C), (1, 0xFF), (2, 0x02), (0x200, 0x90), (0x2FF, 0x78), (0x300, 0x86)] }

/-- The same pointer with a target of the cartridge region's unbacked part in both readings. -/
def pageEndUnbacked : State :=
  { State.reset with ram := [(0x200, 0x40), (0x2FF, 0x14), (0x300, 0x50)] }

/-- Under each reading the pointer's target is one of two. -/
theorem describe_pageEnd {s : State} {lo hi hi' v v' : Byte}
    (hw : readPointerInPage 0x02FF s = .ok (wordOf hi lo)) (hs : memRead2 0x02FF s = .ok (wordOf hi' lo))
    (h : memRead1 (wordOf hi lo) s = .ok v) (h' : memRead1 (wordOf hi' lo) s = .ok v') :
    ∃ op, describe 0x8000 .JMP (.ind 0x02FF) s = .ok op := by
  obtain hp | ⟨-, -, hp⟩ := readPointer_cases Config.openParams.pageWrap 0x02FF s
  · exact ⟨_, by rw [describe, resolveInd_of_pointer (hp.trans hs), refAt_of_read h']; rfl⟩
  · exact ⟨_, by rw [describe, resolveInd_of_pointer (hp.trans hw), refAt_of_read h]; rfl⟩

theorem describe_pageEnd_error {s : State} {lo hi hi' : Byte}
    (hw : readPointerInPage 0x02FF s = .ok (wordOf hi lo)) (hs : memRead2 0x02FF s = .ok (wordOf hi' lo))
    (h : ∃ f, memRead1 (wordOf hi lo) s = .error f) (h' : ∃ f, memRead1 (wordOf hi' lo) s = .error f) :
    ∃ f, describe 0x8000 .JMP (.ind 0x02FF) s = .error f := by
  obtain ⟨⟨f, h⟩, f', h'⟩ := And.intro h h'
  obtain hp | ⟨-, -, hp⟩ := readPointer_cases Config.openParams.pageWrap 0x02FF s
  · exact ⟨f', by rw [describe, resolveInd_of_pointer (hp.trans hs), refAt_error h']; rfl⟩
  · exact ⟨f, by rw [describe, resolveInd_of_pointer (hp.trans hw), refAt_error h]; rfl⟩

/-- A pointer that cannot be read, one off a page's end, one at it; the three values of the parameter. -/
theorem witness_PointerOperandResolves :
    (∃ f, memRead1 0x4000 State.reset = .error f) ∧
    ((0x02FE : Word).toNat % 256 ≠ 255 ∧ (∃ f, memRead2 0x7FFE State.reset = .error f) ∧
      (memRead1 0x02FE State.reset = .ok 0 ∧ memRead1 (0x02FE + 1) State.reset = .ok 0 ∧
        memRead1 (wordOf 0 0) State.reset = .ok 0) ∧
      (memRead1 0x0300 pageEndUnbacked = .ok 0x50 ∧ memRead1 (0x0300 + 1) pageEndUnbacked = .ok 0x00 ∧
        memRead1 0x02FE pageEndUnbacked = .ok 0x00 ∧ memRead1 (0x02FE + 1) pageEndUnbacked = .ok 0x14)) ∧
    ((0x02FF : Word).toNat % 256 = 255 ∧
      (∃ op, describe 0x8000 .JMP (.ind 0x02FF) pageEnd = .ok op) ∧
      (∃ f, describe 0x8000 .JMP (.ind 0x02FF) pageEndUnbacked = .error f) ∧
      (memRead1 0x02FF pageEnd = .ok (lowByte 0x9078) ∧
        memRead1 (0x02FF - 255) pageEnd = .ok (highByte 0x9078) ∧ memRead1 0x9078 pageEnd = .ok 0) ∧
      (memRead1 0x02FF pageEndUnbacked = .ok (lowByte 0x4014) ∧
        memRead1 (0x02FF - 255) pageEndUnbacked = .ok (highByte 0x4014) ∧
        ∃ f, memRead1 0x4014 pageEndUnbacked = .error f) ∧
      (memRead2 0x02FF pageEnd = .ok 0x8678 ∧ memRead1 0x8678 pageEnd = .ok 0) ∧
      (memRead2 0x02FF pageEndUnbacked = .ok 0x5014 ∧ ∃ f, memRead1 0x5014 pageEndUnbacked = .error f) ∧
      (∃ f, memRead2 0x07FF State.reset = .error f) ∧
      ((0x7FFF : Word).toNat % 256 = 255 ∧ ∃ f, memRead1 0x7FFF State.reset = .error f) ∧
      pageEnd.holdsAt 0x0000 (encode (.jmpInd 0x02FF))) :=
  ⟨exists_error (by decide),
    ⟨by decide, exists_error (by decide), ⟨rfl, rfl, rfl⟩,
      ⟨ok_of_valueOf (by decide), ok_of_valueOf (by decide), ok_of_valueOf (by decide),
        ok_of_valueOf (by decide)⟩⟩,
    by decide,
    describe_pageEnd (lo := 0x78) (hi := 0x90) (hi' := 0x86) (v := 0) (v' := 0) (ok_of_valueOf (by decide)) (ok_of_valueOf (by decide))
      (ok_of_valueOf (by decide)) (ok_of_valueOf (by decide)),
    describe_pageEnd_error (lo := 0x14) (hi := 0x40) (hi' := 0x50) (ok_of_valueOf (by decide))
      (ok_of_valueOf (by decide)) (exists_error (by decide)) (exists_error (by decide)),
    ⟨ok_of_valueOf (by decide), ok_of_valueOf (by decide), ok_of_valueOf (by decide)⟩,
    ⟨ok_of_valueOf (by decide), ok_of_valueOf (by decide), exists_error (by decide)⟩,
    ⟨ok_of_valueOf (by decide), ok_of_valueOf (by decide)⟩,
    ⟨ok_of_valueOf (by decide), exists_error (by decide)⟩, exists_error (by decide),
    ⟨by decide, exists_error (by decide)⟩,
    ⟨ok_of_valueOf (by decide), ok_of_valueOf (by decide)⟩⟩

/-- The values of the note on V-JP-05 and V-DE-13: 0x9078 with the page wrap, 0x8678 without, refused. -/
theorem test_jmpInd_params :
    (∀ p : OpenParams, p.pageWrap = .wrap →
      execUnder p (.jmpInd 0x02FF) pageEnd = .next { pageEnd with pc := 0x9078, cycles := 5 }) ∧
    (∀ p : OpenParams, p.pageWrap = .straight →
      execUnder p (.jmpInd 0x02FF) pageEnd = .next { pageEnd with pc := 0x8678, cycles := 5 }) ∧
    (∀ p : OpenParams, p.pageWrap = .refuse → stepUnder p pageEnd = .refused (.jmpIndPageWrap 0x02FF)) := by
  refine ⟨fun p h => ?_, fun p h => ?_, fun p h => ?_⟩
  · rw [execUnder_jmpInd, h]
    exact runJumpInd_next (v := 0) rfl (ok_of_valueOf (by decide)) (ok_of_valueOf (by decide))
  · rw [execUnder_jmpInd, h]
    exact runJumpInd_next (v := 0) rfl (ok_of_valueOf (by decide)) (ok_of_valueOf (by decide))
  · rw [stepUnder_of_fetch (i := .jmpInd 0x02FF) (ok_of_valueOf (by decide)), execUnder_jmpInd, h]
    exact runJumpInd_refused rfl _

/-- V-DE-13 under its own value of the parameter: the decode is refused, and so is the lookahead from the NOP
before it. -/
theorem test_decode_DE_13 :
    decodeUnder ⟨.refuse, .refuse⟩ 0x0000 pageEnd = .refused (.jmpIndPageWrap 0x02FF) ∧
      decodeNUnder ⟨.refuse, .refuse⟩ 2 0xFFFF { pageEnd with cart := { Cartridge.blank with
        prgRom := [(0x3FFF, 0xEA)] } } = .refused (.jmpIndPageWrap 0x02FF) :=
  ⟨rfl, rfl⟩

/-- V-JP-12 under `BRK_POLICY = refuse`: refused, with the address of the BRK. -/
theorem test_brk_refused (p : OpenParams) (h : p.brk = .refuse) :
    stepUnder p State.reset = .refused (.brkPolicy 0x0000) := by
  rw [stepUnder_of_fetch (i := .brk) (ok_of_valueOf (by decide)), execUnder_brk, h]
  rfl

theorem witness_RelativeOperandResolves :
    (((0x8101 : Word).toNat : Int) = ((0x8080 : Word).toNat + 2 + (0x7F : Byte).toInt) % 65536 ∧
        memRead1 0x8101 State.reset = .ok 0) ∧
      (((0x80FE : Word).toNat : Int) = ((0x817C : Word).toNat + 2 + (0x80 : Byte).toInt) % 65536 ∧
        memRead1 0x80FE State.reset = .ok 0) ∧
      (((0x7FFF : Word).toNat : Int) = ((0x8000 : Word).toNat + 2 + (0xFD : Byte).toInt) % 65536 ∧
        ∃ f, memRead1 0x7FFF State.reset = .error f) :=
  ⟨⟨by decide, ok_of_valueOf (by decide)⟩, ⟨by decide, ok_of_valueOf (by decide)⟩, by decide,
    exists_error (by decide)⟩

theorem witness_OperandByteIsRead :
    ∃ op, describe 0x8000 .STA (.mem (.abs 0x3FFF)) State.reset = .ok op ∧ op.addr = some 0x3FFF :=
  ⟨_, rfl, rfl⟩

theorem witness_DecodeReadsIndexAndBus :
    ∃ t : State, t ≠ State.reset ∧ t.ac = State.reset.ac ∧ t.x = State.reset.x ∧ t.y = State.reset.y ∧
      t.ram = State.reset.ram ∧ t.cart = State.reset.cart :=
  ⟨{ State.reset with sr := 0xFF }, by decide, rfl, rfl, rfl, rfl, rfl⟩

theorem witness_LookaheadRepeatsDecode :
    (∃ f, decodeAt 0x8000 (rom 0x8000 0 [0xFF]) = .error f) ∧
      (∃ op, decodeAt 0x8000 (rom 0x8000 0 [0xA9, 0x01, 0x02]) = .ok op ∧
        ∃ f, decodeN 1 (0x8000 + BitVec.ofNat 16 op.length) (rom 0x8000 0 [0xA9, 0x01, 0x02]) = .error f) ∧
      (∃ op, decodeAt 0x8000 (rom 0x8000 0 [0xEA, 0xEA]) = .ok op ∧
        ∃ ops, decodeN 1 (0x8000 + BitVec.ofNat 16 op.length) (rom 0x8000 0 [0xEA, 0xEA]) = .ok ops) :=
  ⟨⟨_, rfl⟩, ⟨_, rfl, _, rfl⟩, ⟨_, rfl, _, rfl⟩⟩

/-- The same three for the lookahead with the OPEN parameters as an argument. -/
theorem witness_LookaheadRepeatsDecode_params :
    (∃ f, decodeUnder Config.openParams 0x8000 (rom 0x8000 0 [0xFF]) = .fault f) ∧
      (∃ op, decodeUnder Config.openParams 0x8000 (rom 0x8000 0 [0xA9, 0x01, 0x02]) = .next op ∧
        ∃ f, decodeNUnder Config.openParams 1 (0x8000 + BitVec.ofNat 16 op.length)
          (rom 0x8000 0 [0xA9, 0x01, 0x02]) = .fault f) ∧
      (∃ op, decodeUnder Config.openParams 0x8000 (rom 0x8000 0 [0xEA, 0xEA]) = .next op ∧
        ∃ ops, decodeNUnder Config.openParams 1 (0x8000 + BitVec.ofNat 16 op.length)
          (rom 0x8000 0 [0xEA, 0xEA]) = .next ops) := by
  obtain ⟨⟨f, h⟩, ⟨op, h1, g, h2⟩, op', h3, ops, h4⟩ := witness_LookaheadRepeatsDecode
  refine ⟨⟨f, ?_⟩, ⟨op, ?_, g, ?_⟩, op', ?_, ops, ?_⟩
  · rw [decodeUnder_openParams, h]; rfl
  · rw [decodeUnder_openParams, h1]; rfl
  · rw [decodeNUnder_openParams, h2]; rfl
  · rw [decodeUnder_openParams, h3]; rfl
  · rw [decodeNUnder_openParams, h4]; rfl

theorem witness_StepRunsDecodedInstruction :
    (decode [0xEA] = .ok (.nop, []) ∧ (rom 0xBFFF 0x3FFF [0xEA]).holdsAt 0xBFFF [0xEA]) ∧
      (decode [0xA9, 0x01] = .ok (.ldaImm 0x01, []) ∧
        ({ State.reset with pc := 0x07FF, ram := [(0, 0x01), (0x7FF, 0xA9)] } : State).holdsAt 0x07FF
          [0xA9, 0x01]) ∧
      (decode [0x4C, 0x34, 0x92] = .ok (.jmpAbs 0x9234, []) ∧
        (rom 0x8000 0 [0x4C, 0x34, 0x92]).holdsAt 0x8000 [0x4C, 0x34, 0x92]) :=
  ⟨⟨rfl, ok_of_valueOf (by decide)⟩, ⟨rfl, ok_of_valueOf (by decide), ok_of_valueOf (by decide)⟩,
    ⟨rfl, ok_of_valueOf (by decide), ok_of_valueOf (by decide)⟩⟩

theorem witness_FirstFailedReadEndsStep :
    (∃ f, decodeAt (rom 0x8000 0 [0xFF]).pc (rom 0x8000 0 [0xFF]) = .error f) ∧
      (∃ f, memRead1 0x4000 State.reset = .error f) ∧
      (encode (.ldaImm 0) = [Instr.opcode (.ldaImm 0), 0] ∧
        ∃ s : State, ∃ f, memRead1 0x7FFF s = .ok (Instr.opcode (.ldaImm 0)) ∧
          memRead1 (0x7FFF + 1) s = .error f) ∧
      (encode (.jmpAbs 0) = [Instr.opcode (.jmpAbs 0), 0, 0] ∧
        ∃ s : State, ∃ f, memRead1 0xBFFE s = .ok (Instr.opcode (.jmpAbs 0)) ∧
          memRead2 (0xBFFE + 1) s = .error f) ∧
      (∃ o f, Instr.form (.staAbs 0x4014) = some (.STA, o) ∧
        (rom 0x8000 0 [0x8D, 0x14, 0x40]).holdsAt 0x8000 (encode (.staAbs 0x4014)) ∧
        describe 0x8000 .STA o (rom 0x8000 0 [0x8D, 0x14, 0x40]) = .error f) ∧
      (Instr.form (.staAbs 0x4014) = some (.STA, .mem (.abs 0x4014)) ∧
        (rom 0x8000 0 [0x8D, 0x14, 0x40]).holdsAt (rom 0x8000 0 [0x8D, 0x14, 0x40]).pc
          (encode (.staAbs 0x4014)) ∧
        memRead1 0x4014 (rom 0x8000 0 [0x8D, 0x14, 0x40]) = .error (.addressOutOfRange 0x4014 .one)) :=
  ⟨exists_error (by decide), exists_error (by decide),
    ⟨rfl, { State.reset with
        cart := { Cartridge.blank with prgUnits := 0, prgRam := some [(0x1FFF, 0xA9)] } }, _,
      ok_of_valueOf (by decide), (exists_error (by decide)).choose_spec⟩,
    ⟨rfl, rom 0xBFFE 0x3FFE [0x4C, 0x00], _, ok_of_valueOf (by decide),
      (exists_error (by decide)).choose_spec⟩,
    ⟨_, _, rfl, ⟨ok_of_valueOf (by decide), ok_of_valueOf (by decide)⟩,
      (exists_error (by decide)).choose_spec⟩,
    rfl, ⟨ok_of_valueOf (by decide), ok_of_valueOf (by decide)⟩, rfl⟩

theorem witness_StepAnswersAfterDecode :
    ∃ op, decodeAt (rom 0x8000 0 [0x8D, 0xFF, 0xFF]).pc (rom 0x8000 0 [0x8D, 0xFF, 0xFF]) = .ok op ∧
      op.mnemonic ≠ .BRK :=
  ⟨_, rfl, by decide⟩

/-- A state in canonical form with something in it, and a step from it. -/
def stored : State := { rom 0x8000 0 [0x85, 0x10] with ac := 0x42, ram := [(0x10, 0x01), (0x7FF, 0x02)] }

theorem witness_StepKeepsCanonicalMemory : stored.wf = true ∧ ∃ t, step stored = .next t :=
  ⟨by decide, _, rfl⟩

/-- An image with one PRG unit, all of whose bytes are 0. -/
def image : List Byte := header 1 0 0 ++ List.replicate 16384 0

theorem image_length : image.length = 16400 := by
  rw [image, List.length_append, List.length_replicate]; rfl

theorem image_loads : loadCartridge false image = .ok (cartridgeOf false image) := by
  rw [loadCartridge, if_neg (by rw [image_length]; decide), if_neg (by decide), if_neg (by decide),
    if_neg (by rw [image_length]; decide)]

theorem witness_ResetIsCanonical : ∃ s, boot false image = .ok s := by
  have h : ∃ v, memRead2 Config.resetVector (State.powerUp (cartridgeOf false image)) = .ok v := by
    rw [memRead2_rom (by decide), if_neg (by decide), if_pos (by decide)]
    exact ⟨_, rfl⟩
  obtain ⟨v, hv⟩ := h
  exact ⟨_, by rw [boot, image_loads]; simp only [resetMachine]; rw [hv]⟩

theorem witness_CartridgeOutlivesStep : ∃ t, step (rom 0x8000 0 [0x8D, 0x00, 0x80]) = .next t :=
  ⟨_, rfl⟩

theorem witness_UnusedAndBreakBitsStay :
    (∃ t, step (rom 0x8000 0 [0x28]) = .next t) ∧
      ∃ t u, resetMachine State.reset = .ok t ∧ Sys2Proof.core.run 1 t = .next u :=
  ⟨⟨_, rfl⟩, _, _, rfl, rfl⟩

theorem witness_OnlyListedFlagsChange :
    Answering (.adcImm 0x7F) .ADC State.reset ∧ Answering .brk .BRK State.reset ∧
      Answering .plp .PLP State.reset :=
  ⟨⟨_, _, rfl, rfl⟩, ⟨_, _, rfl, rfl⟩, ⟨_, _, rfl, rfl⟩⟩

theorem witness_OnlyNamedRegistersChange :
    Answering .aslAcc .ASL State.reset ∧ writesX .ASL = false ∧ writesY .ASL = false ∧
      writesSp .ASL = false ∧ Answering (.ldxImm 1) .LDX State.reset ∧
      writesAc .LDX .imm = false :=
  ⟨⟨_, _, rfl, rfl⟩, rfl, rfl, rfl, ⟨_, _, rfl, rfl⟩, rfl⟩

theorem witness_OnlyStoredBytesChange :
    (Answering (.ldaZp 0xFF) .LDA State.reset ∧ storesAtOperand .LDA .zp = false ∧ bytesPushed .LDA = 0) ∧
      (Answering (.incZpX 0xFF) .INC State.reset ∧ storesAtOperand .INC .zpx = true ∧
        (∃ op, describe State.reset.pc .INC (.mem (.zpx 0xFF)) State.reset = .ok op ∧
          op.addr = some 0x00FF) ∧ ¬ sameCell 0x00FF 0x08FE) ∧
      (Answering .pha .PHA State.reset ∧ storesAtOperand .PHA .impl = false ∧
        ∀ k, k < bytesPushed .PHA → ¬ sameCell (stackAddr (State.reset.sp - BitVec.ofNat 8 k)) 0x01FC) :=
  ⟨⟨⟨_, _, rfl, rfl⟩, rfl, rfl⟩, ⟨⟨_, _, rfl, rfl⟩, rfl, ⟨_, rfl, rfl⟩, by decide⟩,
    ⟨⟨_, _, rfl, rfl⟩, rfl, by decide⟩⟩

theorem witness_ProgramCounterAdvances :
    Mnemonic.isControlTransfer .LDA = false ∧
      Answering (.ldaAbs 0) .LDA { State.reset with pc := 0xFFFF } :=
  ⟨rfl, ⟨_, _, rfl, rfl⟩⟩

theorem witness_StepReturnsCycleCount :
    (Answering (.ldaAbsX 0x20FF) .LDA { State.reset with x := 1 } ∧
        ∃ op, describe 0 .LDA (.mem (.absx 0x20FF)) { State.reset with x := 1 } = .ok op) ∧
      (Answering (.bne 0x7F) .BNE State.reset ∧
        ∃ op, describe 0 .BNE (.rel 0x7F) State.reset = .ok op) :=
  ⟨⟨⟨_, _, rfl, rfl⟩, _, rfl⟩, ⟨⟨_, _, rfl, rfl⟩, _, rfl⟩⟩

theorem witness_InterruptAndDecimalFlagsInert :
    ∃ s' : State, s' ≠ State.reset ∧ s' = { State.reset with sr := s'.sr } ∧
      flagsKept [.interruptDisable, .decimal, .brk, .unused] State.reset s' ∧
      Instr.adcImm 0x09 ≠ .php ∧ Instr.adcImm 0x09 ≠ .brk ∧
      (∃ t, exec (.adcImm 0x09) State.reset = .next t) ∧
      (∃ f, exec (.ldaAbs 0x4000) State.reset = .fault f) := by
  refine ⟨{ State.reset with sr := 0x08 }, by decide, rfl, ?_, nofun, nofun, ⟨_, rfl⟩, ⟨_, rfl⟩⟩
  intro f hf
  cases f <;> first | rfl | exact absurd hf (by decide)

theorem witness_ZeroNegativeFollowByte :
    Flag.carry ≠ .zero ∧ Flag.carry ≠ .negative := by decide

theorem witness_LoadsTakeOperandByte :
    HasRecord (.ldaIndY 0xFF) .LDA State.reset ∧ HasRecord (.ldxZpY 0xFF) .LDX State.reset ∧
      HasRecord (.ldyImm 0x80) .LDY State.reset :=
  ⟨⟨_, _, ⟨_, rfl, rfl⟩, rfl⟩, ⟨_, _, ⟨_, rfl, rfl⟩, rfl⟩, ⟨_, _, ⟨_, rfl, rfl⟩, rfl⟩⟩

theorem witness_StoresPutRegisterByte :
    HasRecord (.staAbsX 0x07FF) .STA State.reset ∧ HasRecord (.stxAbs 0xFFFF) .STX State.reset ∧
      HasRecord (.styAbs 0x3FFF) .STY State.reset :=
  ⟨⟨_, _, ⟨_, rfl, rfl⟩, rfl⟩, ⟨_, _, ⟨_, rfl, rfl⟩, rfl⟩, ⟨_, _, ⟨_, rfl, rfl⟩, rfl⟩⟩

theorem witness_AdcAddsWithCarry : HasRecord (.adcImm 0x80) .ADC State.reset := ⟨_, _, ⟨_, rfl, rfl⟩, rfl⟩

theorem witness_SbcSubtractsWithBorrow : HasRecord (.sbcZp 0xFF) .SBC State.reset :=
  ⟨_, _, ⟨_, rfl, rfl⟩, rfl⟩

theorem witness_ComparesSetFlags :
    HasRecord (.cmpImm 0xFF) .CMP State.reset ∧ HasRecord (.cpxImm 0) .CPX State.reset ∧
      HasRecord (.cpyAbs 0x1FFF) .CPY State.reset :=
  ⟨⟨_, _, ⟨_, rfl, rfl⟩, rfl⟩, ⟨_, _, ⟨_, rfl, rfl⟩, rfl⟩, ⟨_, _, ⟨_, rfl, rfl⟩, rfl⟩⟩

theorem witness_MemoryStepsByOne :
    (HasRecord (.incZp 0) .INC { State.reset with ram := [(0, 0xFF)] } ∧
        (0x00 : Byte).toNat = ((0xFF : Byte).toNat + 1) % 256) ∧
      (HasRecord (.decAbs 0xFFFF) .DEC State.reset ∧
        (0xFF : Byte).toNat = ((0x00 : Byte).toNat + 255) % 256) :=
  ⟨⟨⟨_, _, ⟨_, rfl, rfl⟩, rfl⟩, rfl⟩, ⟨⟨_, _, ⟨_, rfl, rfl⟩, rfl⟩, rfl⟩⟩

theorem witness_IndexStepsByOne :
    ∃ s : State, (0x00 : Byte).toNat = (s.x.toNat + 1) % 256 ∧ (0x00 : Byte).toNat = (s.y.toNat + 1) % 256 ∧
      (0xFE : Byte).toNat = (s.x.toNat + 255) % 256 ∧ (0xFE : Byte).toNat = (s.y.toNat + 255) % 256 :=
  ⟨{ State.reset with x := 0xFF, y := 0xFF }, rfl, rfl, rfl, rfl⟩

theorem witness_LogicalOpsCombineBits :
    HasRecord (.andImm 0) .AND State.reset ∧ HasRecord (.oraIndX 0xFF) .ORA State.reset ∧
      HasRecord (.eorAbsY 0xFFFF) .EOR State.reset :=
  ⟨⟨_, _, ⟨_, rfl, rfl⟩, rfl⟩, ⟨_, _, ⟨_, rfl, rfl⟩, rfl⟩, ⟨_, _, ⟨_, rfl, rfl⟩, rfl⟩⟩

theorem witness_BitTestsOperand : HasRecord (.bitAbs 0x2002) .BIT State.reset :=
  ⟨_, _, ⟨_, rfl, rfl⟩, rfl⟩

/-- Every clause at a boundary byte: ASL and ROL of 0x80, LSR of 0x01, ROR of 0x00 with the carry set; an
operand with an address and one without. -/
theorem witness_ShiftsAndRotatesMoveBits :
    (HasRecord .aslAcc .ASL { State.reset with ac := 0x80 } ∧
        (0x00 : Byte).toNat = 2 * (0x80 : Byte).toNat % 256 ∧ true = (0x80 : Byte).getLsbD 7) ∧
      (HasRecord (.lsrZp 0xFF) .LSR { State.reset with ram := [(0xFF, 0x01)] } ∧
        (0x00 : Byte).toNat = (0x01 : Byte).toNat / 2 ∧ true = (0x01 : Byte).getLsbD 0) ∧
      (HasRecord .rolAcc .ROL { State.reset with ac := 0x80 } ∧
        (0x00 : Byte).toNat = (2 * (0x80 : Byte).toNat + (getFlag .carry 0x34).toNat) % 256 ∧
        true = (0x80 : Byte).getLsbD 7) ∧
      (HasRecord (.rorAbs 0xFFFF) .ROR { State.reset with sr := 0x35 } ∧
        (0x80 : Byte).toNat = (0x00 : Byte).toNat / 2 + 128 * (getFlag .carry 0x35).toNat ∧
        false = (0x00 : Byte).getLsbD 0) :=
  ⟨⟨⟨_, _, ⟨_, rfl, rfl⟩, rfl⟩, rfl, rfl⟩, ⟨⟨_, _, ⟨_, rfl, rfl⟩, rfl⟩, rfl, rfl⟩,
    ⟨⟨_, _, ⟨_, rfl, rfl⟩, rfl⟩, rfl, rfl⟩, ⟨⟨_, _, ⟨_, rfl, rfl⟩, rfl⟩, rfl, rfl⟩⟩

theorem witness_BranchesTestTheirFlag :
    (branchTest .BPL = some (.negative, false) ∧ HasRecord (.bpl 0x7F) .BPL State.reset) ∧
      (branchTest .BEQ = some (.zero, true) ∧
        HasRecord (.beq 0x80) .BEQ { State.reset with pc := 0x0100 }) :=
  ⟨⟨rfl, ⟨_, _, ⟨_, rfl, rfl⟩, rfl⟩⟩, ⟨rfl, ⟨_, _, ⟨_, rfl, rfl⟩, rfl⟩⟩⟩

theorem witness_JumpGoesToAddress :
    HasRecord (.jmpAbs 0xFFFF) .JMP State.reset ∧ HasRecord (.jmpInd 0x02FE) .JMP State.reset :=
  ⟨⟨_, _, ⟨_, rfl, rfl⟩, rfl⟩, ⟨_, _, ⟨_, rfl, rfl⟩, rfl⟩⟩

theorem witness_JsrPushesReturnAddress :
    HasRecord (.jsr 0x8010) .JSR { State.reset with sp := 0x00 } ∧
      ({ State.reset with sp := 0x00 } : State).wf = true ∧
      ¬ sameCell (stackAddr 0x00) 0x0200 ∧ ¬ sameCell (stackAddr (0x00 - 1)) 0x0200 :=
  ⟨⟨_, _, ⟨_, rfl, rfl⟩, rfl⟩, by decide, by decide, by decide⟩

theorem witness_BrkEntersThroughVector :
    (State.reset.cart.prgUnits ≠ 0 ∧ State.reset.wf = true ∧
        ¬ sameCell (stackAddr State.reset.sp) 0x01FA ∧ ¬ sameCell (stackAddr (State.reset.sp - 1)) 0x01FA ∧
        ¬ sameCell (stackAddr (State.reset.sp - 2)) 0x01FA) ∧
      (State.powerUp { Cartridge.blank with prgUnits := 0 }).cart.prgUnits = 0 ∧
      (∃ p : OpenParams, p.brk = .canonical) ∧ (∃ p : OpenParams, p.brk = .refuse) ∧
      State.reset.holdsAt 0x07FF (encode .brk) :=
  ⟨by decide, by decide, ⟨⟨.refuse, .canonical⟩, rfl⟩, ⟨⟨.wrap, .refuse⟩, rfl⟩,
    ok_of_valueOf (by decide)⟩

theorem witness_PushesStoreOnStack :
    ∃ (i : Instr) (v : Byte) (s : State), (i = .pha ∧ v = s.ac) ∨ (i = .php ∧ v = s.sr ||| 0x30) :=
  ⟨.php, 0x34, State.reset, .inr ⟨rfl, rfl⟩⟩

theorem witness_FlagInstructionsWriteOneBit :
    (Instr.sed, Flag.decimal, true) ∈ [(Instr.clc, Flag.carry, false), (.sec, .carry, true),
      (.cli, .interruptDisable, false), (.sei, .interruptDisable, true), (.clv, .overflow, false),
      (.cld, .decimal, false), (.sed, .decimal, true)] := by
  decide

theorem witness_ReturnsUndoCalls :
    State.reset.wf = true ∧ (∃ t, exec (.jsr 0x8010) State.reset = .next t) ∧
      (∃ t, exec .php State.reset = .next t) ∧ (∃ t, exec .brk State.reset = .next t) :=
  ⟨by decide, ⟨_, rfl⟩, ⟨_, rfl⟩, ⟨_, rfl⟩⟩

theorem witness_StackStaysInItsPage : ({ State.reset with sp := 0x00 } : State).wf = true := by decide

theorem witness_RamMirrorsEveryStore :
    (0x1FFF : Word).toNat < 0x2000 ∧ (0x07FF : Word).toNat < 0x2000 ∧
      (0x07FF : Word).toNat % 0x800 = (0x1FFF : Word).toNat % 0x800 ∧ ¬ sameCell 0x1FFF 0x2000 ∧
      State.reset.wf = true := by
  decide

theorem witness_PpuRegionReadsZero :
    (0x2000 ≤ (0x2000 : Word).toNat ∧ (0x2000 : Word).toNat < 0x4000) ∧
      (0x2000 ≤ (0x3FFF : Word).toNat ∧ (0x3FFF : Word).toNat < 0x4000) := by
  decide

theorem witness_RomWindowMirrorsAndDropsStores :
    0x8000 ≤ (0xBFFF : Word).toNat ∧ (0xBFFF : Word).toNat < 0xC000 ∧
      State.reset.cart.prgUnits = 1 ∧ State.reset.cart.prgLen ≠ 0 ∧
      ({ Cartridge.blank with prgUnits := 0 } : Cartridge).prgLen = 0 := by
  decide

theorem witness_UnbackedAddressesFail :
    (0x4000 ≤ (0x7FFF : Word).toNat ∧
        (0x7FFF : Word).toNat < (if State.reset.cart.prgRam.isSome = true then 0x6000 else 0x8000)) ∧
      (0x4000 ≤ (0x5FFF : Word).toNat ∧
        (0x5FFF : Word).toNat < (if withRam.cart.prgRam.isSome = true then 0x6000 else 0x8000)) := by
  decide

theorem witness_PrgRamWritesThrough :
    withRam.cart.prgRam = some [] ∧ 0x6000 ≤ (0x7FFF : Word).toNat ∧ (0x7FFF : Word).toNat < 0x8000 ∧
      withRam.wf = true ∧ (0x6000 : Word) ≠ 0x7FFF := by
  decide

theorem witness_WordReadsAreLittleEndian :
    (∃ w, memRead2 0x07FE State.reset = .ok w) ∧ (∃ w, memRead2 0x7FFE withRam = .ok w) ∧
      ((0x07FF : Word).toNat < 0x2000 ∧ (0x1FFE : Word) ∉ [(0x07FF : Word), 0x0FFF, 0x17FF, 0x1FFF]) ∧
      (State.reset.cart.prgLen ≠ 0 ∧
        ((0xBFFF : Word).toNat - 0x8000) % State.reset.cart.prgLen = State.reset.cart.prgLen - 1 ∧
        ((0xBFFE : Word).toNat - 0x8000) % State.reset.cart.prgLen ≠ State.reset.cart.prgLen - 1 ∧
        (0xBFFE : Word) ≠ 0xFFFF) ∧
      (withRam.cart.prgRam.isSome = true ∧ 0x6000 ≤ (0x6000 : Word).toNat ∧
        0x6000 ≤ (0x7FFF : Word).toNat ∧ (0x7FFF : Word).toNat < 0x8000 ∧ (0x7FFE : Word) ≠ 0x7FFF) :=
  ⟨exists_ok (by decide), exists_ok (by decide), by decide, by decide, by decide⟩

theorem witness_WordStoresAreWhole :
    storesAt 0x1FFF State.reset ∧ storesAt 0x7FFF withRam ∧ storesAt 0x7FFE withRam ∧
      ¬ ((0x7FFE : Word).toNat % 0x800 = 0x7FF ∧ (0x7FFE : Word).toNat < 0x2000 ∨
        (0x7FFE : Word).toNat = 0x7FFF) ∧
      withRam.wf = true ∧ ¬ sameCell 0x7FFE 0x7FFD ∧ ¬ sameCell (0x7FFE + 1) 0x7FFD := by
  decide

theorem witness_LoaderReportsFirstFailedCheck :
    ((header 1 1 0).take 15).length < 16 ∧
      (16 ≤ ((header 1 1 0).set 3 0).length ∧ ((header 1 1 0).set 3 0).take 4 ≠ [0x4E, 0x45, 0x53, 0x1A]) ∧
      (16 ≤ (header 1 1 0xF0).length ∧ (header 1 1 0xF0).take 4 = [0x4E, 0x45, 0x53, 0x1A] ∧
        (header 1 1 0xF0)[6]? = some 0xF0 ∧ (header 1 1 0xF0)[4]? = some 1 ∧
        (header 1 1 0xF0)[5]? = some 1 ∧ 16 ≤ (0xF0 : Byte).toNat) ∧
      ((0x0F : Byte).toNat < 16 ∧
        (header 1 1 0x0F).length <
          16 + (if (0x0F : Byte).getLsbD 2 then 512 else 0) + (1 : Byte).toNat * 16384 +
            (1 : Byte).toNat * 8192) ∧
      16 + (if (0x00 : Byte).getLsbD 2 then 512 else 0) + (0 : Byte).toNat * 16384 +
          (0 : Byte).toNat * 8192 ≤ (header 0 0 0).length := by
  decide

theorem witness_LoaderSlicesImage :
    (∃ c, loadCartridge false image = .ok c ∧ 16383 < c.prgLen) ∧ image[4]? = some 1 ∧
      image[5]? = some 0 ∧ image[6]? = some 0 :=
  ⟨⟨_, image_loads, by decide⟩, rfl, rfl, rfl⟩

/-- An image with one PRG unit, one CHR unit and a trainer, all of whose bytes are 0. -/
def trainedImage : List Byte := header 1 1 0x04 ++ List.replicate 25088 0

theorem trainedImage_length : trainedImage.length = 25104 := by
  rw [trainedImage, List.length_append, List.length_replicate]; rfl

/-- With bit 2 of byte 6 set and CHR present: the trainer branch and the CHR clause. -/
theorem witness_LoaderSlicesImage_trainer :
    (∃ c, loadCartridge true trainedImage = .ok c ∧ 16383 < c.prgLen ∧ 8191 < c.chrLen) ∧
      trainedImage[4]? = some 1 ∧ trainedImage[5]? = some 1 ∧ trainedImage[6]? = some 0x04 ∧
      (0x04 : Byte).getLsbD 2 = true := by
  refine ⟨⟨cartridgeOf true trainedImage, ?_, by decide, by decide⟩, rfl, rfl, rfl, rfl⟩
  rw [loadCartridge, if_neg (by rw [trainedImage_length]; decide), if_neg (by decide), if_neg (by decide),
    if_neg (by rw [trainedImage_length]; decide)]

theorem witness_ResetLoadsVector :
    ∃ v, memRead2 0xFFFC (rom 0 0x3FFC [0x00, 0x80]) = .ok v ∧ v = 0x8000 :=
  ⟨_, ok_of_valueOf (by decide), rfl⟩

theorem witness_ResetFailsWithoutRom :
    (State.powerUp { Cartridge.blank with prgUnits := 0 }).cart.prgUnits = 0 ∧
      State.reset.cart.prgUnits ≠ 0 := by
  decide

end Sys2Proof.Tests
end

section
/-! What every step that answers did: it ran an instruction of the tables, it changed memory by byte
stores alone, and it changed the flags of its mnemonic alone. The invariants of the state follow. -/

namespace Sys2Proof.Machine

/-! ### A step that answers, and a run of steps -/

/-- Only an illegal byte stands for no mnemonic (R141). -/
theorem eq_illegal_of_form_eq_none {i : Instr} (h : i.form = none) : ∃ b, i = .illegal b := by
  cases i
  case illegal b => exact ⟨b, rfl⟩
  all_goals cases h

/-- A step that answers is the execution of an instruction with a mnemonic (R141, R200, R303). -/
theorem step_next {s t : State} (h : step s = .next t) :
    ∃ i mn o, i.form = some (mn, o) ∧ exec i s = .next t := by
  unfold step at h
  split at h
  · cases h
  · next i _ =>
    cases hf : i.form with
    | some p => exact ⟨i, p.1, p.2, hf, h⟩
    | none =>
      obtain ⟨b, rfl⟩ := eq_illegal_of_form_eq_none hf
      cases h

/-- What every step of a machine keeps, every run of it keeps. -/
theorem run_keeps {M : Host.Core} {P : M.State → Prop}
    (hP : ∀ s t, M.step s = .next t → P s → P t) {n : Nat} {s t : M.State} (h : M.run n s = .next t)
    (hs : P s) : P t := by
  induction n generalizing s with
  | zero =>
    cases h
    exact hs
  | succ n ih =>
    unfold Host.Core.run at h
    split at h
    · next u hu => exact ih h (hP s u hu hs)
    · cases h
    · cases h

@[simp] theorem finished_sr (op : DecodedOp) (s : State) : (finished op s).sr = s.sr := rfl
@[simp] theorem finished_ram (op : DecodedOp) (s : State) : (finished op s).ram = s.ram := rfl
@[simp] theorem finished_cart (op : DecodedOp) (s : State) : (finished op s).cart = s.cart := rfl

/-- A break sequence that answers read its vector and made its two pushes (R267). -/
theorem enterBreak_ok {s t : State} (h : enterBreak s = .ok t) :
    ∃ v u w, pushWord (s.pc + 2) s = .ok u ∧ push (pushedStatus s.sr) u = .ok w ∧
      t = (w.setSr (putFlag .interruptDisable true w.sr)).setPc v := by
  unfold enterBreak at h
  split at h
  · cases h
  · next v _ =>
    split at h
    · cases h
    · next u hu =>
      split at h
      · cases h
      · next w hw =>
        rw [Except.ok.injEq] at h
        exact ⟨v, u, w, hu, hw, h.symm⟩

/-! ### Memory changes by byte stores alone -/

/-- Every byte store on the bus keeps the property `P` of RAM and cartridge. -/
def KeptByStores (P : Memory → Cartridge → Prop) : Prop :=
  ∀ (a : Word) (v : Byte) (s t : State), memWrite1 a v s = .ok t → P s.ram s.cart → P t.ram t.cart

section
variable {P : Memory → Cartridge → Prop} (hP : KeptByStores P) {s t : State}
include hP

theorem push_keptByStores {v : Byte} (h : push v s = .ok t) (hs : P s.ram s.cart) :
    P t.ram t.cart := by
  unfold push at h
  split at h
  · next u hu =>
    rw [Except.ok.injEq] at h
    subst h
    exact hP _ v s u hu hs
  · cases h

theorem pushWord_keptByStores {w : Word} (h : pushWord w s = .ok t) (hs : P s.ram s.cart) :
    P t.ram t.cart := by
  unfold pushWord at h
  split at h
  · next u hu => exact push_keptByStores hP h (push_keptByStores hP hu hs)
  · cases h

theorem enterBreak_keptByStores (h : enterBreak s = .ok t) (hs : P s.ram s.cart) :
    P t.ram t.cart := by
  obtain ⟨v, u, w, hu, hw, rfl⟩ := enterBreak_ok h
  exact push_keptByStores hP (t := w) hw (pushWord_keptByStores hP hu hs)

/-- By kind: the stores, the read-modify-writes, the pushes, JSR and BRK store bytes, the other kinds leave
RAM and cartridge as they are. -/
theorem answers_keptByStores {mn : Mnemonic} {op : DecodedOp} (h : Answers op s t (effectOf mn))
    (hs : P s.ram s.cart) : P t.ram t.cart := by
  cases he : effectOf mn <;> rw [he] at h
  case read f =>
    obtain ⟨m, -, rfl⟩ := h
    obtain ⟨hr, hc, -, -⟩ := read_keeps he m s
    rwa [finished_ram, finished_cart, hr, hc]
  case store v =>
    obtain ⟨ea, u, -, hu, rfl⟩ := h
    exact hP ea _ s u hu hs
  case modify f =>
    obtain ⟨m, -, ⟨-, -, rfl⟩ | ⟨ea, u, -, -, hu, rfl⟩⟩ := h
    · exact hs
    · exact hP ea _ s u hu hs
  case implied f =>
    obtain rfl := h
    obtain ⟨hr, hc, -⟩ := implied_keeps he s
    rwa [finished_ram, finished_cart, hr, hc]
  case push v =>
    obtain ⟨u, hu, rfl⟩ := h
    exact push_keptByStores hP (t := u) hu hs
  case pull f =>
    obtain ⟨v, -, rfl⟩ := h
    obtain ⟨hr, hc, -, -⟩ := pull_keeps he v (pulled s)
    rwa [finished_ram, finished_cart, hr, hc]
  case branch flag want =>
    obtain ⟨tgt, -, -, rfl⟩ := h
    split <;> exact hs
  case jump =>
    obtain ⟨ea, -, rfl⟩ := h
    exact hs
  case call =>
    obtain ⟨ea, u, -, hu, rfl⟩ := h
    exact pushWord_keptByStores hP (t := u) hu hs
  case ret =>
    obtain ⟨w, -, rfl⟩ := h
    exact hs
  case rti =>
    obtain ⟨u, hu, rfl⟩ := h
    rw [returnFromBreak_eq, Except.ok.injEq] at hu
    subst hu
    exact hs
  case brk =>
    obtain ⟨u, hu, rfl⟩ := h
    exact enterBreak_keptByStores hP (t := u) hu hs

/-- What every byte store keeps of RAM and cartridge, every step keeps. -/
theorem step_keptByStores (h : step s = .next t) (hs : P s.ram s.cart) : P t.ram t.cart := by
  obtain ⟨i, mn, o, hf, hx⟩ := step_next h
  obtain ⟨op, -, ha⟩ := exec_next hf hx
  exact answers_keptByStores hP ha hs

end

/-- Settles O18: every byte store keeps the canonical form, and a step changes memory by byte stores
alone. -/
theorem stepKeepsCanonicalMemory : Obligations.StepKeepsCanonicalMemory := by
  intro s t hw h
  have hP : KeptByStores fun r c => (Memory.wf Config.ramSize r && c.wf) = true :=
    fun _ _ _ _ hm => memWrite1_wf hm
  exact step_keptByStores hP h hw

/-- A byte store keeps a cartridge equal to `c₀` but for the cells of PRG-RAM, and PRG-RAM present or
absent (R36, R82). -/
theorem keptByStores_cartridge (c₀ : Cartridge) :
    KeptByStores fun _ c => c = { c₀ with prgRam := c.prgRam } ∧ c.prgRam.isSome = c₀.prgRam.isSome := by
  rintro a v s t h ⟨hc, hp⟩
  rcases memWrite1_cases h with ⟨-, rfl⟩ | ⟨-, rfl⟩ | ⟨m, -, -, hm, rfl⟩
  · exact ⟨hc, hp⟩
  · exact ⟨hc, hp⟩
  · rw [hm] at hp
    refine ⟨?_, hp⟩
    rw [State.setPrgRam_cart, hc]

/-- Settles O20: no byte store reaches ROM, CHR or a cartridge flag. -/
theorem cartridgeOutlivesStep : Obligations.CartridgeOutlivesStep :=
  fun s _ h => step_keptByStores (keptByStores_cartridge s.cart) h ⟨rfl, rfl⟩

/-! ### Which flags change -/

theorem getFlag_setZN_of_notMem {f : Flag} (h : f ∉ [Flag.negative, .zero]) (v sr : Byte) :
    getFlag f (setZN v sr) = getFlag f sr := by
  simp only [List.mem_cons, List.not_mem_nil, or_false, not_or] at h
  exact getFlag_setZN_other h.2 h.1 v sr

theorem getFlag_sumFlags_of_notMem {f : Flag} (h : f ∉ [Flag.negative, .overflow, .zero, .carry])
    (t : Sum) (sr : Byte) : getFlag f (sumFlags t sr) = getFlag f sr := by
  simp only [List.mem_cons, List.not_mem_nil, or_false, not_or] at h
  obtain ⟨hn, hv, hz, hc⟩ := h
  rw [sumFlags, getFlag_setZN_other hz hn, getFlag_putFlag_ne hv, getFlag_putFlag_ne hc]

theorem getFlag_compareFlags_of_notMem {f : Flag} (h : f ∉ [Flag.negative, .zero, .carry])
    (reg m sr : Byte) : getFlag f (compareFlags reg m sr) = getFlag f sr := by
  simp only [List.mem_cons, List.not_mem_nil, or_false, not_or] at h
  obtain ⟨hn, hz, hc⟩ := h
  rw [compareFlags, getFlag_putFlag_ne hn, getFlag_putFlag_ne hz, getFlag_putFlag_ne hc]

theorem getFlag_bitFlags_of_notMem {f : Flag} (h : f ∉ [Flag.negative, .overflow, .zero])
    (a m sr : Byte) : getFlag f (bitFlags a m sr) = getFlag f sr := by
  simp only [List.mem_cons, List.not_mem_nil, or_false, not_or] at h
  obtain ⟨hn, hv, hz⟩ := h
  rw [bitFlags, getFlag_putFlag_ne hv, getFlag_putFlag_ne hn, getFlag_putFlag_ne hz]

theorem getFlag_shiftFlags_of_notMem {f : Flag} (h : f ∉ [Flag.negative, .zero, .carry])
    (out : Bool) (r sr : Byte) : getFlag f (shiftFlags out r sr).sr = getFlag f sr := by
  simp only [List.mem_cons, List.not_mem_nil, or_false, not_or] at h
  obtain ⟨hn, hz, hc⟩ := h
  rw [shiftFlags, getFlag_setZN_other hz hn, getFlag_putFlag_ne hc]

theorem getFlag_putFlag_of_notMem {f g : Flag} (h : f ∉ [g]) (v : Bool) (sr : Byte) :
    getFlag f (putFlag g v sr) = getFlag f sr :=
  getFlag_putFlag_ne (by simpa using h) v sr

/-- Bits 5 and 4 are the flags that a pulled status byte does not give (R26). -/
theorem getFlag_pulledStatus_of_notMem {f : Flag}
    (h : f ∉ [Flag.negative, .overflow, .decimal, .interruptDisable, .zero, .carry]) (p sr : Byte) :
    getFlag f (pulledStatus p sr) = getFlag f sr := by
  have hf : f = .unused ∨ f = .brk := by
    cases f <;> simp_all
  rw [getFlag_pulledStatus, if_pos hf]

theorem push_sr {v : Byte} {s t : State} (h : push v s = .ok t) : t.sr = s.sr := by
  rw [(push_stored h).2]

theorem pushWord_sr {w : Word} {s t : State} (h : pushWord w s = .ok t) : t.sr = s.sr := by
  rw [pushWord_eq, Except.ok.injEq] at h
  subst h
  rfl

/-- The break sequence writes I alone (R267). -/
theorem enterBreak_sr {s t : State} (h : enterBreak s = .ok t) :
    t.sr = putFlag .interruptDisable true s.sr := by
  obtain ⟨v, u, w, hu, hw, rfl⟩ := enterBreak_ok h
  rw [State.setPc_sr, State.setSr_sr, push_sr hw, pushWord_sr hu]

theorem flagsKept_of_sr_eq {s t : State} (h : t.sr = s.sr) (fs : List Flag) : flagsKept fs s t :=
  fun f _ => by rw [h]

/-- The rows of R27 for the mnemonics that read an operand. -/
theorem read_flagsKept {mn : Mnemonic} {f : Byte → State → State} (h : effectOf mn = .read f)
    (m : Byte) (s : State) : flagsKept (flagsWritten mn) s (f m s) := by
  cases mn <;> simp only [effectOf, Effect.read.injEq, reduceCtorEq] at h <;> subst h
  case ADC | SBC => exact fun _ hg => getFlag_sumFlags_of_notMem hg _ _
  case CMP | CPX | CPY => exact fun _ hg => getFlag_compareFlags_of_notMem hg _ _ _
  case BIT => exact fun _ hg => getFlag_bitFlags_of_notMem hg _ _ _
  all_goals exact fun _ hg => getFlag_setZN_of_notMem hg _ _

/-- The rows of R27 for the read-modify-write mnemonics. -/
theorem getFlag_modify_of_notMem {mn : Mnemonic} {f : Byte → Byte → Shifted} (h : effectOf mn = .modify f)
    {g : Flag} (hg : g ∉ flagsWritten mn) (m sr : Byte) : getFlag g (f m sr).sr = getFlag g sr := by
  cases mn <;> simp only [effectOf, Effect.modify.injEq, reduceCtorEq] at h <;> subst h
  case INC | DEC => exact getFlag_setZN_of_notMem hg _ _
  all_goals exact getFlag_shiftFlags_of_notMem hg _ _ _

/-- The rows of R27 for the mnemonics without an operand that are neither stack nor control transfer. -/
theorem implied_flagsKept {mn : Mnemonic} {f : State → State} (h : effectOf mn = .implied f)
    (s : State) : flagsKept (flagsWritten mn) s (f s) := by
  cases mn <;> simp only [effectOf, Effect.implied.injEq, reduceCtorEq] at h <;> subst h
  case CLC | SEC | CLI | SEI | CLV | CLD | SED => exact fun _ hg => getFlag_putFlag_of_notMem hg _ _
  case TXS | NOP => exact fun _ _ => rfl
  all_goals exact fun _ hg => getFlag_setZN_of_notMem hg _ _

/-- The rows of R27 for PLA and PLP. -/
theorem pull_flagsKept {mn : Mnemonic} {f : Byte → State → State} (h : effectOf mn = .pull f)
    (v : Byte) (s : State) : flagsKept (flagsWritten mn) s (f v s) := by
  cases mn <;> simp only [effectOf, Effect.pull.injEq, reduceCtorEq] at h <;> subst h
  case PLA => exact fun _ hg => getFlag_setZN_of_notMem hg _ _
  case PLP => exact fun _ hg => getFlag_pulledStatus_of_notMem hg _ _

theorem eq_RTI_of_effect {mn : Mnemonic} (h : effectOf mn = .rti) : mn = .RTI := by
  cases mn
  case RTI => rfl
  all_goals cases h

theorem eq_BRK_of_effect {mn : Mnemonic} (h : effectOf mn = .brk) : mn = .BRK := by
  cases mn
  case BRK => rfl
  all_goals cases h

/-- By kind: an instruction that answers writes the flags of its mnemonic's row alone (R27). -/
theorem answers_flagsKept {mn : Mnemonic} {op : DecodedOp} {s t : State}
    (h : Answers op s t (effectOf mn)) : flagsKept (flagsWritten mn) s t := by
  cases he : effectOf mn <;> rw [he] at h
  case read f =>
    obtain ⟨m, -, rfl⟩ := h
    exact read_flagsKept he m s
  case store v =>
    obtain ⟨ea, u, -, hu, rfl⟩ := h
    obtain ⟨-, hsr, -⟩ := memWrite1_registers hu
    exact flagsKept_of_sr_eq hsr _
  case modify f =>
    obtain ⟨m, -, ⟨-, -, rfl⟩ | ⟨ea, u, -, -, -, rfl⟩⟩ := h <;>
      exact fun g hg => getFlag_modify_of_notMem he hg m s.sr
  case implied f =>
    obtain rfl := h
    exact implied_flagsKept he s
  case push v =>
    obtain ⟨u, hu, rfl⟩ := h
    exact flagsKept_of_sr_eq (push_sr hu) _
  case pull f =>
    obtain ⟨v, -, rfl⟩ := h
    exact pull_flagsKept he v (pulled s)
  case branch flag want =>
    obtain ⟨tgt, -, -, rfl⟩ := h
    split <;> exact flagsKept_of_sr_eq rfl _
  case jump =>
    obtain ⟨ea, -, rfl⟩ := h
    exact flagsKept_of_sr_eq rfl _
  case call =>
    obtain ⟨ea, u, -, hu, rfl⟩ := h
    exact flagsKept_of_sr_eq (pushWord_sr hu) _
  case ret =>
    obtain ⟨w, -, rfl⟩ := h
    exact flagsKept_of_sr_eq rfl _
  case rti =>
    obtain ⟨u, hu, rfl⟩ := h
    obtain rfl := eq_RTI_of_effect he
    rw [returnFromBreak_eq, Except.ok.injEq] at hu
    subst hu
    exact fun g hg => getFlag_pulledStatus_of_notMem hg _ _
  case brk =>
    obtain ⟨u, hu, rfl⟩ := h
    obtain rfl := eq_BRK_of_effect he
    exact fun g hg => (congrArg (getFlag g) (enterBreak_sr hu)).trans (getFlag_putFlag_of_notMem hg _ _)

/-- Settles O22: by the kinds of effect. -/
theorem onlyListedFlagsChange : Obligations.OnlyListedFlagsChange := by
  intro i mn o s t hf h
  obtain ⟨op, -, ha⟩ := exec_next hf h
  exact answers_flagsKept ha

/-- No row of R27 lists bit 5 or bit 4. -/
theorem unused_brk_notMem_flagsWritten (mn : Mnemonic) :
    Flag.unused ∉ flagsWritten mn ∧ Flag.brk ∉ flagsWritten mn := by
  cases mn <;> decide

/-- No step changes bit 5 or bit 4 (R26). -/
theorem step_unused_brk {s t : State} (h : step s = .next t) :
    getFlag .unused t.sr = getFlag .unused s.sr ∧ getFlag .brk t.sr = getFlag .brk s.sr := by
  obtain ⟨i, mn, o, hf, hx⟩ := step_next h
  have hk := onlyListedFlagsChange i mn o s t hf hx
  obtain ⟨hu, hb⟩ := unused_brk_notMem_flagsWritten mn
  exact ⟨hk _ hu, hk _ hb⟩

/-- Reset leaves the status register at its reset value (R340). -/
theorem resetMachine_sr {s t : State} (h : resetMachine s = .ok t) : t.sr = Config.resetSr := by
  unfold resetMachine at h
  split at h
  · cases h
  · rw [Except.ok.injEq] at h
    subst h
    rfl

/-- Settles O21: no mnemonic lists bit 5 or bit 4, Reset leaves both 1, and so does every run after it. -/
theorem unusedAndBreakBitsStay : Obligations.UnusedAndBreakBitsStay := by
  refine ⟨fun _ _ => step_unused_brk, fun s t u n hr hn => ?_⟩
  refine run_keeps (M := Sys2Proof.core)
    (P := fun v => getFlag .unused v.sr = true ∧ getFlag .brk v.sr = true) ?_ hn ?_
  · rintro v w h ⟨hu, hb⟩
    obtain ⟨hu', hb'⟩ := step_unused_brk h
    exact ⟨hu'.trans hu, hb'.trans hb⟩
  · rw [resetMachine_sr hr]
    decide

end Sys2Proof.Machine
end

section
/-! The bus part of the address map by part: the mirrors of RAM, the regions that drop a store or have
nothing behind them, PRG-RAM, and the 16-bit accesses as two byte accesses. Then the image loader. -/

namespace Sys2Proof.Machine

/-! ### Byte stores that answer -/

/-- A store to RAM or to PRG-RAM never fails (R92, R83). -/
theorem memWrite1_answers {a : Word} {s : State} (h : storesAt a s) (v : Byte) :
    ∃ t, memWrite1 a v s = .ok t := by
  rcases h with hr | ⟨h1, h2, hp⟩
  · exact ⟨_, memWrite1_ram hr v s⟩
  · obtain ⟨m, hm⟩ := Option.isSome_iff_exists.1 hp
    exact ⟨_, memWrite1_prgRam h1 h2 hm v⟩

/-- A byte store keeps the cartridge but for the cells of PRG-RAM (R36). -/
theorem memWrite1_romKept {a : Word} {v : Byte} {s t : State} (h : memWrite1 a v s = .ok t) :
    romKept s t :=
  (keptByStores_cartridge s.cart a v s t h ⟨rfl, rfl⟩).1

/-- A byte store leaves the places where a store stores as they were (R97). -/
theorem memWrite1_storesAt {a : Word} {v : Byte} {s t : State} (h : memWrite1 a v s = .ok t) (b : Word) :
    storesAt b t ↔ storesAt b s := by
  have hp := (keptByStores_cartridge s.cart a v s t h ⟨rfl, rfl⟩).2
  rw [storesAt, storesAt, hp]

/-- Settles O50: a read of RAM is a read of the cell at the address modulo 0x800, and a store writes it. -/
theorem ramMirrorsEveryStore : Obligations.RamMirrorsEveryStore := by
  intro a s ha
  refine ⟨⟨_, memRead1_ram ha s⟩, fun b hb hab => ?_, fun v => ?_⟩
  · rw [memRead1_ram hb, memRead1_ram ha, hab]
  · have h := memWrite1_ram ha v s
    obtain ⟨hframe, hback, -⟩ := memWrite1_stored h
    exact ⟨_, h, fun hw b hb hab => hback hw (.inl ha) b (.inr ⟨ha, hb, hab.symm⟩), hframe, rfl⟩

/-! ### The regions where nothing is stored -/

/-- A 16-bit store to the PPU region is dropped (R93). -/
theorem memWrite2_ppu {a : Word} (h : 0x2000 ≤ a.toNat) (h' : a.toNat < 0x4000) (w : Word) (s : State) :
    memWrite2 a w s = .ok s := by
  rw [memWrite2, regionOf_ppu h h']

/-- A 16-bit store to the ROM window is dropped (R82). -/
theorem memWrite2_rom {a : Word} (h : 0x8000 ≤ a.toNat) (w : Word) (s : State) :
    memWrite2 a w s = .ok s := by
  simp only [memWrite2, regionOf_cart (show 0x4000 ≤ a.toNat by omega), window_rom h]

/-- A 16-bit store to an unbacked address fails with that address (R84). -/
theorem memWrite2_unbacked {a : Word} (h : 0x4000 ≤ a.toNat) (h' : a.toNat < 0x8000) {s : State}
    (hm : a.toNat < 0x6000 ∨ s.cart.prgRam = none) (w : Word) :
    memWrite2 a w s = .error (.addressOutOfRange a.toNat .two) := by
  simp only [memWrite2, regionOf_cart h, window_unbacked h' hm]

/-- Settles O51: by the accesses of the PPU region. -/
theorem ppuRegionReadsZero : Obligations.PpuRegionReadsZero := fun _ s h h' =>
  ⟨memRead1_ppu h h' s, memRead2_ppu h h' s, fun v => memWrite1_ppu h h' v s,
    fun w => memWrite2_ppu h h' w s⟩

/-- A 16 KiB PRG-ROM is seen twice in its window (R81). -/
theorem memRead1_rom_mirror {a : Word} {s : State} (hu : s.cart.prgUnits = 1) (h : 0x8000 ≤ a.toNat)
    (h' : a.toNat < 0xC000) : memRead1 (a + 0x4000) s = memRead1 a s := by
  have hlen : s.cart.prgLen = 0x4000 := by rw [Cartridge.prgLen, hu]; rfl
  have ha : (a + 0x4000).toNat = a.toNat + 0x4000 := by
    rw [BitVec.toNat_add, show (0x4000 : Word).toNat = 0x4000 from rfl]
    omega
  have hoff : (a.toNat + 0x4000 - 0x8000) % 0x4000 = (a.toNat - 0x8000) % 0x4000 := by omega
  rw [memRead1_rom (by omega), memRead1_rom h, hlen, ha, hoff, if_neg (by decide), if_neg (by decide)]

/-- Settles O52: by the accesses of the ROM window. -/
theorem romWindowMirrorsAndDropsStores : Obligations.RomWindowMirrorsAndDropsStores := by
  intro a s h
  refine ⟨fun hz => ⟨?_, ?_⟩, fun hz => ?_, fun hu h' => memRead1_rom_mirror hu h h',
    fun v => memWrite1_rom h v s, fun w => memWrite2_rom h w s⟩
  · rw [memRead1_rom h, if_pos hz]
  · rw [memRead2_rom h, if_pos (.inl hz)]
  · rw [memRead1_rom h, if_neg hz]

/-- Settles O53: such an address lies below PRG-RAM, or there is no PRG-RAM. -/
theorem unbackedAddressesFail : Obligations.UnbackedAddressesFail := by
  intro a s h hlt
  have hun : a.toNat < 0x8000 ∧ (a.toNat < 0x6000 ∨ s.cart.prgRam = none) := by
    split at hlt
    · exact ⟨by omega, .inl hlt⟩
    · next hp => exact ⟨hlt, .inr (Option.not_isSome_iff_eq_none.1 hp)⟩
  obtain ⟨h', hm⟩ := hun
  exact ⟨memRead1_unbacked h h' hm, memRead2_unbacked h h' hm, memWrite1_unbacked h h' hm,
    memWrite2_unbacked h h' hm⟩

/-- Settles O54: an address of PRG-RAM has no mirror, so a store there is seen at it alone. -/
theorem prgRamWritesThrough : Obligations.PrgRamWritesThrough := by
  intro a s m hm h1 h2
  refine ⟨memRead1_prgRam h1 h2 hm, fun v => ?_⟩
  have h := memWrite1_prgRam h1 h2 hm v
  obtain ⟨hframe, hback, -⟩ := memWrite1_stored h
  refine ⟨_, h, fun hw => hback hw (.inr ⟨h1, h2, by rw [hm]; rfl⟩) a (.inl rfl), fun b hb => ?_,
    memWrite1_romKept h, rfl⟩
  refine hframe b ?_
  rintro (hab | ⟨hr, -⟩)
  · exact hb hab.symm
  · omega

/-! ### 16-bit accesses as two byte accesses -/

/-- Below the last address the next one is no wrap (R8). -/
theorem succ_toNat_of_lt {a : Word} (h : a.toNat < 0xFFFF) : (a + 1).toNat = a.toNat + 1 :=
  succ_toNat fun ha => Nat.ne_of_lt h (congrArg BitVec.toNat ha)

/-- Outside the PPU region a 16-bit read that answers is the bytes at its address and at the next one, low
byte first (R86, R96). -/
theorem memRead2_halves {a w : Word} {s : State} (h : memRead2 a s = .ok w)
    (ha : a.toNat < 0x2000 ∨ 0x4000 ≤ a.toNat) :
    memRead1 a s = .ok (lowByte w) ∧ memRead1 (a + 1) s = .ok (highByte w) := by
  rcases address_cases a s with hr | ⟨hp, hp'⟩ | hr | ⟨h1, h2, m, hm⟩ | ⟨h1, h2, hm⟩
  · rw [memRead2_ram hr] at h
    split at h
    · next hlt =>
      cases h
      have hsucc := succ_toNat_of_lt (a := a) (by omega)
      have hoff : (a + 1).toNat % 0x800 = a.toNat % 0x800 + 1 := by omega
      rw [memRead1_ram hr, memRead1_ram (by omega), hoff, lowByte_wordOf, highByte_wordOf]
      exact ⟨rfl, rfl⟩
    · cases h
  · omega
  · rw [memRead2_rom hr] at h
    split at h
    · cases h
    · next hn =>
      obtain ⟨hz, htop⟩ := not_or.1 hn
      split at h
      · next hlt =>
        cases h
        have hsucc := succ_toNat htop
        have hoff : ((a + 1).toNat - 0x8000) % s.cart.prgLen = (a.toNat - 0x8000) % s.cart.prgLen + 1 := by
          rw [hsucc, Nat.sub_add_comm hr, ← Nat.mod_add_mod, Nat.mod_eq_of_lt hlt]
        rw [memRead1_rom hr, memRead1_rom (by omega), if_neg hz, if_neg hz, hoff, lowByte_wordOf,
          highByte_wordOf]
        exact ⟨rfl, rfl⟩
      · cases h
  · rw [memRead2_prgRam h1 h2 hm] at h
    split at h
    · cases h
      have hsucc := succ_toNat_of_lt (a := a) (by omega)
      have hoff : (a + 1).toNat - 0x6000 = a.toNat - 0x6000 + 1 := by omega
      rw [memRead1_prgRam h1 h2 hm, memRead1_prgRam (by omega) (by omega) hm, hoff, lowByte_wordOf,
        highByte_wordOf]
      exact ⟨rfl, rfl⟩
    · cases h
  · rw [memRead2_unbacked h1 h2 hm] at h
    cases h

/-- The last byte of a block that can be stored to: of a copy of RAM, or of PRG-RAM (R96, R98; the size of
PRG-RAM is log 12). -/
abbrev lastOfBlock (a : Word) : Prop :=
  a.toNat % 0x800 = 0x7FF ∧ a.toNat < 0x2000 ∨ a.toNat = 0x7FFF

/-- A 16-bit access at the last byte of a block fails in both directions (R86, R96, R98). -/
theorem wordAccess_fails_of_lastOfBlock {a : Word} {s : State} (hs : storesAt a s)
    (hl : lastOfBlock a) (w : Word) :
    memRead2 a s = .error (.addressOutOfRange a.toNat .two) ∧
      memWrite2 a w s = .error (.addressOutOfRange a.toNat .two) := by
  rcases hs with hr | ⟨h1, h2, hp⟩
  · have hend : ¬ a.toNat % 0x800 + 1 < 0x800 := by omega
    rw [memRead2_ram hr, memWrite2_ram hr, if_neg hend, if_neg hend]
    exact ⟨rfl, rfl⟩
  · obtain ⟨m, hm⟩ := Option.isSome_iff_exists.1 hp
    have hend : ¬ a.toNat < 0x7FFF := by omega
    rw [memRead2_prgRam h1 h2 hm, memWrite2_prgRam h1 h2 hm, if_neg hend, if_neg hend]
    exact ⟨rfl, rfl⟩

/-- A 16-bit read at any other address of RAM or PRG-RAM answers (R86, R96). -/
theorem memRead2_answers {a : Word} {s : State} (hs : storesAt a s) (hl : ¬ lastOfBlock a) :
    ∃ w, memRead2 a s = .ok w := by
  rcases hs with hr | ⟨h1, h2, hp⟩
  · exact ⟨_, (memRead2_ram hr s).trans (if_pos (by omega))⟩
  · obtain ⟨m, hm⟩ := Option.isSome_iff_exists.1 hp
    exact ⟨_, (memRead2_prgRam h1 h2 hm).trans (if_pos (by omega))⟩

/-- A 16-bit store at any other address of RAM or PRG-RAM answers, and is the byte store of the low byte
followed by that of the high byte at the next address, where a store stores too (R98). -/
theorem memWrite2_byteStores {a : Word} {s : State} (hs : storesAt a s) (hl : ¬ lastOfBlock a)
    (w : Word) : storesAt (a + 1) s ∧ ∃ u t, memWrite1 a (lowByte w) s = .ok u ∧
      memWrite1 (a + 1) (highByte w) u = .ok t ∧ memWrite2 a w s = .ok t := by
  have hsucc := succ_toNat_of_lt (a := a) (by omega)
  rcases hs with hr | ⟨h1, h2, hp⟩
  · have hr' : (a + 1).toNat < 0x2000 := by omega
    have hoff : (a + 1).toNat % 0x800 = a.toNat % 0x800 + 1 := by omega
    refine ⟨.inl hr', _, _, memWrite1_ram hr _ s, memWrite1_ram hr' _ _, ?_⟩
    rw [memWrite2_ram hr, if_pos (by omega), hoff]
    rfl
  · obtain ⟨m, hm⟩ := Option.isSome_iff_exists.1 hp
    have h1' : 0x6000 ≤ (a + 1).toNat := by omega
    have h2' : (a + 1).toNat < 0x8000 := by omega
    have hoff : (a + 1).toNat - 0x6000 = a.toNat - 0x6000 + 1 := by omega
    refine ⟨.inr ⟨h1', h2', hp⟩, _, _, memWrite1_prgRam h1 h2 hm _, memWrite1_prgRam h1' h2' rfl _, ?_⟩
    rw [memWrite2_prgRam h1 h2 hm, if_pos (by omega), hoff]
    rfl

/-- Two neighbouring addresses never share a cell (R92). -/
theorem not_sameCell_succ (a : Word) : ¬ sameCell (a + 1) a := by
  have hne : (a + 1).toNat % 0x800 ≠ a.toNat % 0x800 := by
    rw [BitVec.toNat_add, show (1 : Word).toNat = 1 from rfl]
    omega
  rintro (h | ⟨-, -, h⟩)
  · exact hne (by rw [h])
  · exact hne h

/-- A 16-bit store that answers reads back as the word stored (R96, R98). -/
theorem memRead2_byteStores {a w : Word} {s u t : State} (hw : s.wf = true) (hs : storesAt a s)
    (hl : ¬ lastOfBlock a) (hs' : storesAt (a + 1) s) (hlo : memWrite1 a (lowByte w) s = .ok u)
    (hhi : memWrite1 (a + 1) (highByte w) u = .ok t) : memRead2 a t = .ok w := by
  obtain ⟨-, hbackLo, -⟩ := memWrite1_stored hlo
  obtain ⟨hframeHi, hbackHi, -⟩ := memWrite1_stored hhi
  have hlow : memRead1 a t = .ok (lowByte w) :=
    (hframeHi a (not_sameCell_succ a)).trans (hbackLo hw hs a (.inl rfl))
  have hhigh : memRead1 (a + 1) t = .ok (highByte w) :=
    hbackHi (memWrite1_wf hlo hw) ((memWrite1_storesAt hlo _).2 hs') (a + 1) (.inl rfl)
  have hst : storesAt a t := (memWrite1_storesAt hhi a).2 ((memWrite1_storesAt hlo a).2 hs)
  obtain ⟨w', hw'⟩ := memRead2_answers hst hl
  obtain ⟨hlow', hhigh'⟩ := memRead2_halves hw' (by omega)
  rw [hlow, Except.ok.injEq] at hlow'
  rw [hhigh, Except.ok.injEq] at hhigh'
  rw [hw', ← wordOf_high_low w', ← hlow', ← hhigh', wordOf_high_low]

/-- Settles O56: at a block's last byte it fails, and elsewhere it is two byte stores. -/
theorem wordStoresAreWhole : Obligations.WordStoresAreWhole := by
  intro a w s hs
  refine ⟨fun hl => (wordAccess_fails_of_lastOfBlock hs hl w).2, fun hl => ?_⟩
  obtain ⟨hs', u, t, hlo, hhi, h⟩ := memWrite2_byteStores hs hl w
  refine ⟨t, h, ?_, ?_, fun hw => memRead2_byteStores hw hs hl hs' hlo hhi, fun b hb hb' => ?_⟩
  · rw [romKept, memWrite1_romKept hhi, memWrite1_romKept hlo]
  · rw [memWrite1_keeps hhi, memWrite1_keeps hlo]
  · exact ((memWrite1_stored hhi).1 b hb').trans ((memWrite1_stored hlo).1 b hb)

/-- The four addresses where a copy of RAM ends (R92, R96). -/
theorem mem_ramEnds_iff {a : Word} (h : a.toNat < 0x2000) :
    a ∈ [(0x07FF : Word), 0x0FFF, 0x17FF, 0x1FFF] ↔ lastOfBlock a := by
  have hmem : a ∈ [(0x07FF : Word), 0x0FFF, 0x17FF, 0x1FFF] ↔
      a.toNat = 0x07FF ∨ a.toNat = 0x0FFF ∨ a.toNat = 0x17FF ∨ a.toNat = 0x1FFF := by
    simp [← BitVec.toNat_inj]
  rw [hmem]
  omega

/-- A 16-bit read of PRG-ROM fails where its offset is the last one, and at 0xFFFF (R86, R96; log 15). -/
theorem memRead2_rom_fails {a : Word} {s : State} (h : 0x8000 ≤ a.toNat)
    (hl : (a.toNat - 0x8000) % s.cart.prgLen = s.cart.prgLen - 1 ∨ a = 0xFFFF) :
    memRead2 a s = .error (.addressOutOfRange a.toNat .two) := by
  rw [memRead2_rom h]
  split
  · rfl
  · next hn =>
    obtain ⟨hz, htop⟩ := not_or.1 hn
    have hlast := hl.resolve_right htop
    rw [if_neg (by omega)]

/-- A 16-bit read of PRG-ROM answers everywhere else (R86, R96). -/
theorem memRead2_rom_answers {a : Word} {s : State} (h : 0x8000 ≤ a.toNat) (hz : s.cart.prgLen ≠ 0)
    (hl : (a.toNat - 0x8000) % s.cart.prgLen ≠ s.cart.prgLen - 1) (htop : a ≠ 0xFFFF) :
    ∃ w, memRead2 a s = .ok w := by
  have hlt : (a.toNat - 0x8000) % s.cart.prgLen < s.cart.prgLen := Nat.mod_lt _ (by omega)
  rw [memRead2_rom h, if_neg (not_or.2 ⟨hz, htop⟩), if_pos (by omega)]
  exact ⟨_, rfl⟩

/-- A 16-bit read of RAM fails at the end of a copy and nowhere else (R92, R96). -/
theorem memRead2_ram_fails_iff {a : Word} (h : a.toNat < 0x2000) (s : State) :
    memRead2 a s = .error (.addressOutOfRange a.toNat .two) ↔ lastOfBlock a := by
  refine ⟨fun he => ?_, fun hl => (wordAccess_fails_of_lastOfBlock (.inl h) hl 0).1⟩
  by_contra hl
  obtain ⟨w, hw⟩ := memRead2_answers (s := s) (.inl h) hl
  rw [hw] at he
  cases he

/-- Settles O55: by the parts of the address map. -/
theorem wordReadsAreLittleEndian : Obligations.WordReadsAreLittleEndian := by
  refine ⟨fun a w s => memRead2_halves, fun a s hr => ?_,
    fun a s hr hz => ⟨memRead2_rom_fails hr, memRead2_rom_answers hr hz⟩, fun a s hp h1 h2 => ?_,
    fun s => memRead2_ppu (by decide) (by decide) s⟩
  · rw [mem_ramEnds_iff hr]
    exact ⟨memRead2_ram_fails_iff hr s, memRead2_answers (.inl hr)⟩
  · have hend : a = 0x7FFF ↔ lastOfBlock a := by
      rw [← BitVec.toNat_inj, show (0x7FFF : Word).toNat = 0x7FFF from rfl]
      omega
    rw [ne_eq, hend]
    exact ⟨fun hl => (wordAccess_fails_of_lastOfBlock (.inr ⟨h1, h2, hp⟩) hl 0).1,
      memRead2_answers (.inr ⟨h1, h2, hp⟩)⟩

/-! ### The image loader -/

/-- A byte of an image below its length. -/
theorem imageByte_eq {f : List Byte} {i : Nat} {b : Byte} (h : f[i]? = some b) : imageByte f i = b := by
  rw [imageByte, List.getD_eq_getElem?_getD, h]
  rfl

/-- The mapper nibble as a number (R66). -/
theorem declaredMapper_eq {f : List Byte} {b : Byte} (h : f[6]? = some b) :
    declaredMapper f = BitVec.ofNat 4 (b.toNat / 16) := by
  rw [declaredMapper, imageByte_eq h]
  apply BitVec.eq_of_toNat_eq
  rw [BitVec.extractLsb'_toNat, BitVec.toNat_ofNat, Nat.shiftRight_eq_div_pow]

/-- The mapper nibble is 0 exactly where the flag byte is below 16 (R66, R68). -/
theorem declaredMapper_eq_zero_iff {f : List Byte} {b : Byte} (h : f[6]? = some b) :
    declaredMapper f = 0 ↔ b.toNat < 16 := by
  have := b.isLt
  rw [declaredMapper_eq h, ← BitVec.toNat_inj, BitVec.toNat_ofNat, show (0 : BitVec 4).toNat = 0 from rfl]
  omega

/-- Where the data of PRG-ROM begins, by the trainer bit (R70, R71). -/
theorem prgStart_eq {f : List Byte} {b : Byte} (h : f[6]? = some b) :
    prgStart f = 16 + if b.getLsbD 2 then 512 else 0 := by
  rw [prgStart, declaredTrainerLen, imageByte_eq h]
  rfl

/-- The least length of an image, by its header bytes (R64, R65, R74). -/
theorem declaredLen_eq {f : List Byte} {prg chr b : Byte} (h4 : f[4]? = some prg) (h5 : f[5]? = some chr)
    (h6 : f[6]? = some b) : declaredLen f =
      16 + (if b.getLsbD 2 then 512 else 0) + prg.toNat * 16384 + chr.toNat * 8192 := by
  rw [declaredLen, chrStart, prgStart_eq h6, declaredPrgLen, declaredChrLen, imageByte_eq h4, imageByte_eq h5]
  rfl

/-- The checks with the header's constants as numbers (R69). -/
theorem loadCartridge_eq (p : Bool) (f : List Byte) : loadCartridge p f =
    if f.length < 16 then .error .malformedHeader
    else if f.take 4 ≠ [0x4E, 0x45, 0x53, 0x1A] then .error .malformedHeader
    else if declaredMapper f ≠ 0 then .error (.unsupportedMapper (declaredMapper f))
    else if f.length < declaredLen f then .error .truncatedImage
    else .ok (cartridgeOf p f) := rfl

/-- Settles O57: the four checks in the order of the definition. -/
theorem loaderReportsFirstFailedCheck : Obligations.LoaderReportsFirstFailedCheck := by
  intro p f
  rw [loadCartridge_eq]
  refine ⟨fun hlen => if_pos hlen, fun hlen hmagic => ?_, fun hlen hmagic b h6 prg h4 chr h5 => ?_⟩
  · rw [if_neg (Nat.not_lt.2 hlen), if_pos hmagic]
  · have hzero := declaredMapper_eq_zero_iff h6
    rw [if_neg (Nat.not_lt.2 hlen), if_neg (not_not.2 hmagic), ← declaredLen_eq h4 h5 h6]
    refine ⟨fun hb => ?_, fun hb => ?_⟩
    · rw [if_pos (mt hzero.1 (Nat.not_lt.2 hb)), declaredMapper_eq h6]
    · rw [if_neg (not_not.2 (hzero.2 hb))]
      exact ⟨fun hshort => if_pos hshort, fun hlong => ⟨_, if_neg (Nat.not_lt.2 hlong)⟩⟩

/-- An image that loads passed the last two checks, and its cartridge is the one of its bytes (R68, R74,
R79). -/
theorem loadCartridge_ok {p : Bool} {f : List Byte} {c : Cartridge} (h : loadCartridge p f = .ok c) :
    declaredMapper f = 0 ∧ declaredLen f ≤ f.length ∧ c = cartridgeOf p f := by
  rw [loadCartridge_eq] at h
  split at h
  · cases h
  · split at h
    · cases h
    · split at h
      · cases h
      · next hmapper =>
        split at h
        · cases h
        · next hlen =>
          cases h
          exact ⟨not_not.1 hmapper, Nat.not_lt.1 hlen, rfl⟩

/-- A slice of an image placed as a block reads as the image's bytes (R72, R73). -/
theorem getElem?_eq_read_slice {f : List Byte} {start len : Nat} (h : start + len ≤ f.length) {i : Nat}
    (hi : i < len) :
    f[start + i]? = some (Memory.read (Memory.ofBytes 0 ((f.drop start).take len)) i) := by
  have hread := Memory.read_ofBytes 0 ((f.drop start).take len) i
  rw [Nat.zero_add, List.getD_eq_getElem?_getD, List.getElem?_take_of_lt hi, List.getElem?_drop,
    List.getElem?_eq_getElem (by omega)] at hread
  rw [hread, List.getElem?_eq_getElem (by omega)]
  rfl

/-- Settles O58: each block of the cartridge is a slice of an image long enough for both. -/
theorem loaderSlicesImage : Obligations.LoaderSlicesImage := by
  intro p f c prg chr b h h4 h5 h6
  obtain ⟨hmapper, hlen, rfl⟩ := loadCartridge_ok h
  have hstart := prgStart_eq h6
  obtain rfl := imageByte_eq h4
  obtain rfl := imageByte_eq h5
  obtain rfl := imageByte_eq h6
  have hprg : (cartridgeOf p f).prgLen = declaredPrgLen f := rfl
  have hchr : (cartridgeOf p f).chrLen = declaredChrLen f := rfl
  have hfit : prgStart f + declaredPrgLen f + declaredChrLen f ≤ f.length := hlen
  have hram : (cartridgeOf p f).prgRam.isSome = p := by cases p <;> rfl
  rw [hprg, hchr, ← hstart]
  exact ⟨rfl, rfl, fun i hi => getElem?_eq_read_slice (by omega) hi,
    fun i hi => getElem?_eq_read_slice hfit hi, rfl, rfl, rfl, rfl, hmapper, hram⟩

end Sys2Proof.Machine
end

section
/-! The opcode byte and the bytes of an instruction: encoding and decoding are inverse, and the opcode byte
settles mnemonic, mode and flags. -/

namespace Sys2Proof

open Sys2Proof.Machine

/-! ### Encoding and decoding -/

/-- The instruction comes out of the shape of the opcode byte `b`, with the operand bytes of its encoding. -/
inductive FromShape (b : Byte) (i : Instr) : Prop
  | one : decodeOpcode b = .one i → encode i = [b] → FromShape b i
  | two {k : Byte → Instr} {nn : Byte} : decodeOpcode b = .two k → encode i = [b, nn] → k nn = i →
      FromShape b i
  | three {k : Word → Instr} {w : Word} : decodeOpcode b = .three k →
      encode i = [b, lowByte w, highByte w] → k w = i → FromShape b i

theorem decodeOpcode_of_wf_illegal {b : Byte} (hw : (Instr.illegal b).wf = true) :
    decodeOpcode b = .one (.illegal b) :=
  (decodeOpcode_illegal b).1 (List.contains_iff_mem.1 hw)

/-- Every well-formed instruction comes out of the shape of its opcode byte (R121, R140). -/
theorem fromShape_of_wf {i : Instr} (hw : i.wf = true) : FromShape i.opcode i := by
  cases i
  case illegal b => exact .one (decodeOpcode_of_wf_illegal hw) rfl
  all_goals simp only [Instr.opcode]
  all_goals first
    | exact .one rfl rfl
    | exact .two rfl rfl rfl
    | exact .three rfl rfl rfl

/-- Settles O2: by the shape of the opcode byte. -/
theorem decodeInvertsEncode : Obligations.DecodeInvertsEncode := by
  intro i rest hw
  cases fromShape_of_wf hw with
  | one hs he =>
    rw [he]
    exact decode_one hs rest
  | two hs he hi =>
    rw [he]
    exact (decode_two hs _ rest).trans (by rw [hi])
  | three hs he hi =>
    rw [he]
    exact (decode_three hs _ _ rest).trans (by rw [wordOf_high_low, hi])

/-- Settles O3: what each shape of the opcode byte makes of its operand bytes agrees with the encoder. -/
theorem encodeInvertsDecode : Obligations.EncodeInvertsDecode := by
  intro bs rest i h
  obtain ⟨b, rfl, hs⟩ | ⟨b, nn, k, rfl, hs, rfl⟩ | ⟨b, ll, hh, k, rfl, hs, rfl⟩ := decode_cases h
  all_goals
    have ha := decodeOpcode_agrees b
    rw [hs] at ha
  · obtain ⟨he, hw⟩ := ha
    exact ⟨by rw [he]; rfl, hw⟩
  · obtain ⟨he, hw⟩ := ha nn
    exact ⟨by rw [he]; rfl, hw⟩
  · obtain ⟨he, hw⟩ := ha (wordOf hh ll)
    exact ⟨by rw [he, lowByte_wordOf, highByte_wordOf]; rfl, hw⟩

/-- Settles O1: each word is evaluated. -/
theorem familyWordsDecode : Obligations.FamilyWordsDecode :=
  ⟨rfl, rfl, rfl, rfl, rfl, rfl, rfl, rfl, rfl, rfl, rfl⟩

/-! ### What the opcode byte settles -/

/-- The mnemonic and the addressing mode of an instruction that is a row of the tables. -/
def Instr.nameAndMode (i : Instr) : Option (Mnemonic × AddressingMode) :=
  i.form.map (Prod.map id Operand.mode)

theorem nameAndMode_of_form {i : Instr} {mn : Mnemonic} {o : Operand} (h : i.form = some (mn, o)) :
    i.nameAndMode = some (mn, o.mode) := by
  rw [Instr.nameAndMode, h]
  rfl

theorem form_of_nameAndMode {i : Instr} {mn : Mnemonic} {md : AddressingMode}
    (h : i.nameAndMode = some (mn, md)) : ∃ o, i.form = some (mn, o) ∧ o.mode = md := by
  obtain ⟨⟨mn', o⟩, hf, hp⟩ := Option.map_eq_some_iff.1 h
  cases hp
  exact ⟨o, hf, rfl⟩

/-- The opcode byte settles mnemonic and mode: they are those of any instruction of its shape (R121). -/
theorem nameAndMode_sample {i : Instr} (hw : i.wf = true) :
    (decodeOpcode i.opcode).sample.nameAndMode = i.nameAndMode := by
  cases i
  case illegal b => exact congrArg (fun sh => sh.sample.nameAndMode) (decodeOpcode_of_wf_illegal hw)
  all_goals (simp only [Instr.opcode]; rfl)

/-- The opcodes with the page-penalty flag (R138). -/
def penaltyOpcodes : List Byte :=
  [0x1D, 0x19, 0x11, 0x3D, 0x39, 0x31, 0x5D, 0x59, 0x51, 0x7D, 0x79, 0x71,
    0xBD, 0xB9, 0xB1, 0xDD, 0xD9, 0xD1, 0xFD, 0xF9, 0xF1, 0xBE, 0xBC]

/-- The opcodes of the branches (R139). -/
def branchOpcodes : List Byte := [0x10, 0x30, 0x50, 0x70, 0x90, 0xB0, 0xD0, 0xF0]

/-- The two flags, opcode byte by opcode byte (R138, R139). -/
theorem flags_of_opcode : ∀ b : Byte, ∀ p ∈ (decodeOpcode b).sample.nameAndMode,
    (pagePenalty p.1 p.2 = true ↔ b ∈ penaltyOpcodes) ∧
      (relFixup p.2 = true ↔ b ∈ branchOpcodes) := by
  decide

/-- Settles O5: mnemonic and mode are those of the opcode byte, of which there are 256. -/
theorem penaltyAndFixupForms : Obligations.PenaltyAndFixupForms := by
  intro i mn o hf
  exact flags_of_opcode i.opcode (mn, o.mode)
    ((nameAndMode_sample (wf_of_form hf)).trans (nameAndMode_of_form hf))

/-- A row of the matrix says of its opcode byte what the decoder and the tables of mode and mnemonic say
(R140). -/
theorem matrix_rows : ∀ r ∈ decodeMatrix,
    (decodeOpcode r.opcode).sample.nameAndMode = some (r.mnemonic, r.mode) ∧ r.mode.length = r.length ∧
      baseCycles r.mnemonic r.mode = r.cycles ∧ pagePenalty r.mnemonic r.mode = r.pagePenalty := by
  simp only [decodeMatrix, List.forall_mem_append]
  repeat' apply And.intro
  all_goals decide

theorem encode_head (i : Instr) : ∃ l, encode i = i.opcode :: l := by
  unfold encode
  split <;> exact ⟨_, rfl⟩

theorem opcode_of_encode {i : Instr} {b : Byte} {l : List Byte} (h : encode i = b :: l) : i.opcode = b := by
  obtain ⟨l', h'⟩ := encode_head i
  exact (List.cons.inj (h'.symm.trans h)).1

/-- Three bytes hold an instruction of the first one's opcode, and as many are left as it does not take
(R122, R161). -/
theorem decode_three_bytes (b ll hh : Byte) : ∃ i, i.wf = true ∧ i.opcode = b ∧
    decode [b, ll, hh] = .ok (i, [ll, hh].drop ((encode i).length - 1)) := by
  have ha := decodeOpcode_agrees b
  cases hs : decodeOpcode b with
  | one i =>
    rw [hs] at ha
    obtain ⟨he, hw⟩ := ha
    exact ⟨i, hw, opcode_of_encode he, by rw [he]; exact decode_one hs _⟩
  | two k =>
    rw [hs] at ha
    obtain ⟨he, hw⟩ := ha ll
    exact ⟨k ll, hw, opcode_of_encode he, by rw [he]; exact decode_two hs _ _⟩
  | three k =>
    rw [hs] at ha
    obtain ⟨he, hw⟩ := ha (wordOf hh ll)
    exact ⟨k (wordOf hh ll), hw, opcode_of_encode he, by rw [he]; exact decode_three hs _ _ _⟩

/-- The rows stand in the order of their opcodes, so no opcode stands twice (R140). -/
theorem matrix_opcodes_rise : (decodeMatrix.map fun r => r.opcode.toNat).Pairwise (· < ·) := by
  rw [← List.isChain_iff_pairwise]
  simp [decodeMatrix, matrixRows0, matrixRows1, matrixRows2, matrixRows3, matrixRows4, matrixRows5,
    matrixRows6, matrixRows7, matrixRows8, matrixRows9, matrixRowsA, matrixRowsB, matrixRowsC, matrixRowsD,
    matrixRowsE, matrixRowsF]

/-- Settles O4: each row is checked at its opcode byte. -/
theorem matrixGivesEveryOpcode : Obligations.MatrixGivesEveryOpcode := by
  refine ⟨rfl, fun r hr ll hh => ?_, matrix_opcodes_rise⟩
  obtain ⟨hsample, hlen, hcycles, hpenalty⟩ := matrix_rows r hr
  obtain ⟨i, hw, hop, hd⟩ := decode_three_bytes r.opcode ll hh
  rw [← hop, nameAndMode_sample hw] at hsample
  obtain ⟨o, hf, hmode⟩ := form_of_nameAndMode hsample
  refine ⟨i, o, ?_, hf, hmode, hlen, hcycles, hpenalty⟩
  rw [hd, encode_length_of_form hf, hmode, hlen]

end Sys2Proof
end

section
/-! Operand resolution and the decoder on the bus: where each mode finds its operand and which read fails,
what decoding depends on, and the lookahead as repeated decoding. -/

namespace Sys2Proof.Machine

/-! ### Operands at one effective address -/

/-- The record `e` is that of an operand at the effective address `ea`: it holds the byte there, and fails as
the read of that byte fails (R182, R350). -/
def ReadsAt (ea : Word) (base : Option Word) (s : State) (e : Except Fault DecodedOp) : Prop :=
  (∀ v, memRead1 ea s = .ok v →
      ∃ op, e = .ok op ∧ op.addr = some ea ∧ op.val = some v ∧ op.base = base) ∧
    ∀ f, memRead1 ea s = .error f → e = .error f

theorem readsAt_withRef (op : DecodedOp) (ea : Word) (base : Option Word) (s : State) :
    ReadsAt ea base s (withRef op (refAt ea base s)) := by
  refine ⟨fun v h => ?_, fun f h => ?_⟩
  · rw [refAt_of_read h]
    exact ⟨_, rfl, rfl, rfl, rfl⟩
  · rw [refAt_error h]
    rfl

theorem describe_abs (a : Word) (mn : Mnemonic) (w : Word) (s : State) :
    ReadsAt w none s (describe a mn (.mem (.abs w)) s) :=
  readsAt_withRef (opShape mn .abs) w none s

theorem describe_absx (a : Word) (mn : Mnemonic) (w : Word) (s : State) :
    ReadsAt (w + zext16 s.x) (some w) s (describe a mn (.mem (.absx w)) s) :=
  readsAt_withRef (opShape mn .absx) _ (some w) s

theorem describe_absy (a : Word) (mn : Mnemonic) (w : Word) (s : State) :
    ReadsAt (w + zext16 s.y) (some w) s (describe a mn (.mem (.absy w)) s) :=
  readsAt_withRef (opShape mn .absy) _ (some w) s

theorem describe_rel (a : Word) (mn : Mnemonic) (d : Byte) (s : State) :
    ReadsAt (a + 2 + sext16 d) (some (a + 2)) s (describe a mn (.rel d) s) :=
  readsAt_withRef (opShape mn .rel) _ (some (a + 2)) s

theorem describe_zp (a : Word) (mn : Mnemonic) (nn : Byte) (s : State) :
    ReadsAt (zext16 nn) none s (describe a mn (.mem (.zp nn)) s) :=
  readsAt_withRef (opShape mn .zp) _ none s

theorem describe_zpx (a : Word) (mn : Mnemonic) (nn : Byte) (s : State) :
    ReadsAt (zext16 (nn + s.x)) none s (describe a mn (.mem (.zpx nn)) s) := by
  rw [← zpIndexed_eq]
  exact readsAt_withRef (opShape mn .zpx) _ none s

theorem describe_zpy (a : Word) (mn : Mnemonic) (nn : Byte) (s : State) :
    ReadsAt (zext16 (nn + s.y)) none s (describe a mn (.mem (.zpy nn)) s) := by
  rw [← zpIndexed_eq]
  exact readsAt_withRef (opShape mn .zpy) _ none s

theorem describe_indx {nn : Byte} {ea : Word} {s : State} (h : zpRead16 (nn + s.x) s = .ok ea) (a : Word)
    (mn : Mnemonic) : ReadsAt ea none s (describe a mn (.mem (.indx nn)) s) := by
  rw [describe, resolveMem, h]
  exact readsAt_withRef _ ea none s

theorem describe_indy {nn : Byte} {w : Word} {s : State} (h : zpRead16 nn s = .ok w) (a : Word)
    (mn : Mnemonic) : ReadsAt (w + zext16 s.y) (some w) s (describe a mn (.mem (.indy nn)) s) := by
  rw [describe, resolveMem, h]
  exact readsAt_withRef _ _ (some w) s

theorem describe_ind {ptr ea : Word} {s : State}
    (h : readPointer Config.openParams.pageWrap ptr s = .ok ea) (a : Word) (mn : Mnemonic) :
    ReadsAt ea none s (describe a mn (.ind ptr) s) := by
  rw [describe, resolveInd_of_pointer h]
  exact readsAt_withRef _ ea none s

theorem describe_ind_error {ptr : Word} {s : State} {f : Fault}
    (h : readPointer Config.openParams.pageWrap ptr s = .error f) (a : Word) (mn : Mnemonic) :
    describe a mn (.ind ptr) s = .error f := by
  rw [describe, resolveInd_error h]
  rfl

/-! ### Zero page and absolute operands -/

/-- The bus address of a zero-page byte, given as a number modulo 256 (R173, R174). -/
theorem eq_zext16 {p : Word} {v : Byte} (h : p.toNat = v.toNat) : p = zext16 v :=
  BitVec.eq_of_toNat_eq (h.trans (zext16_toNat v).symm)

/-- An indexed address, given as a number modulo 65536 (R176). -/
theorem eq_add_zext16 {ea w : Word} {v : Byte} (h : ea.toNat = (w.toNat + v.toNat) % 65536) :
    ea = w + zext16 v :=
  BitVec.eq_of_toNat_eq (by rw [h, BitVec.toNat_add, zext16_toNat])

/-- An operand in the zero page resolves: a read of RAM never fails (R173, R174). -/
theorem readsAt_zp {v : Byte} {s : State} {e : Except Fault DecodedOp} {n : Nat}
    (h : ReadsAt (zext16 v) none s e) (hn : v.toNat = n) :
    ∃ op ea b, e = .ok op ∧ op.addr = some ea ∧ ea.toNat = n ∧ memRead1 ea s = .ok b ∧ op.val = some b ∧
      op.base = none := by
  have hread := memRead1_ram (zext16_lt v) s
  obtain ⟨op, he, ha, hv, hb⟩ := h.1 _ hread
  exact ⟨op, _, _, he, ha, (zext16_toNat v).trans hn, hread, hv, hb⟩

/-- Settles O7: three modes read nothing, and the three zero-page modes read RAM. -/
theorem shortOperandsResolve : Obligations.ShortOperandsResolve := by
  intro a mn s nn
  exact ⟨⟨_, rfl, rfl, rfl, rfl⟩, ⟨_, rfl, rfl, rfl, rfl⟩, ⟨_, rfl, rfl, rfl, rfl⟩,
    readsAt_zp (describe_zp a mn nn s) rfl, readsAt_zp (describe_zpx a mn nn s) (BitVec.toNat_add _ _),
    readsAt_zp (describe_zpy a mn nn s) (BitVec.toNat_add _ _)⟩

/-- Settles O8: each of the three modes reads at one address. -/
theorem absoluteOperandsResolve : Obligations.AbsoluteOperandsResolve := by
  intro a w mn s v f
  have habs := describe_abs a mn w s
  have habsx := describe_absx a mn w s
  have habsy := describe_absy a mn w s
  refine ⟨habs.1 v, habs.2 f, fun ea hea => ?_, fun ea hea => ?_⟩
  · obtain rfl := eq_add_zext16 hea
    exact ⟨habsx.1 v, habsx.2 f⟩
  · obtain rfl := eq_add_zext16 hea
    exact ⟨habsy.1 v, habsy.2 f⟩

/-- The two reads of a zero-page pointer, low byte first, with wrap at 0xFF (R180). -/
theorem zpRead16_of_reads {q lo hi : Byte} {p p' : Word} {s : State} (hp : p.toNat = q.toNat)
    (hp' : p'.toNat = (q.toNat + 1) % 256) (hlo : memRead1 p s = .ok lo) (hhi : memRead1 p' s = .ok hi) :
    zpRead16 q s = .ok (wordOf hi lo) := by
  obtain rfl := eq_zext16 hp
  obtain rfl : p' = zext16 (q + 1) := eq_zext16 (hp'.trans (BitVec.toNat_add q 1).symm)
  simp only [zpRead16, Config.zpPtrWrap, if_true, hlo, hhi]

/-- Settles O9: the pointer is read in RAM, the operand at the address it gives. -/
theorem indirectOperandsResolve : Obligations.IndirectOperandsResolve := by
  intro a mn s nn lo hi v f
  refine ⟨fun p hp => ⟨_, memRead1_ram (by omega) s⟩, fun p p' hp hp' hlo hhi => ?_,
    fun p p' ea hp hp' hea hlo hhi => ?_⟩
  · have hsum : (nn + s.x).toNat = (nn.toNat + s.x.toNat) % 256 := BitVec.toNat_add _ _
    have hptr := zpRead16_of_reads (hp.trans hsum.symm) (by rw [hp', hsum, Nat.mod_add_mod]) hlo hhi
    have h := describe_indx hptr a mn
    exact ⟨h.1 v, h.2 f⟩
  · obtain rfl := eq_add_zext16 hea
    have h := describe_indy (zpRead16_of_reads hp hp' hlo hhi) a mn
    exact ⟨h.1 v, h.2 f⟩

/-- The branch target as a number: the signed displacement is added modulo 65536 (R181). -/
theorem eq_branchTarget {a tgt : Word} {d : Byte}
    (h : (tgt.toNat : Int) = (a.toNat + 2 + d.toInt) % 65536) : tgt = a + 2 + sext16 d := by
  have hd : sext16 d = BitVec.ofInt 16 d.toInt := by
    apply BitVec.eq_of_toInt_eq
    rw [sext16, BitVec.toInt_signExtend_of_le (by decide), BitVec.toInt_ofInt]
    have := BitVec.toInt_lt (x := d)
    have := BitVec.le_toInt d
    exact (Int.bmod_eq_of_le (by omega) (by omega)).symm
  apply BitVec.eq_of_toNat_eq
  have hn : ((a + 2 + sext16 d).toNat : Int) = (a.toNat + 2 + d.toInt) % 65536 := by
    rw [hd, BitVec.toNat_add, BitVec.toNat_add, BitVec.toNat_ofInt, show (2 : Word).toNat = 2 from rfl]
    omega
  omega

/-- Settles O11: the byte at the target is read, taken or not. -/
theorem relativeOperandResolves : Obligations.RelativeOperandResolves := by
  intro a tgt mn s d h
  obtain rfl := eq_branchTarget h
  exact describe_rel a mn d s

/-- A record with a reference in it holds the byte that the reference was made with (R182). -/
theorem read_of_withRef {sh op : DecodedOp} {r : Except Fault MemRef} {ea : Word} {s : State}
    (h : withRef sh r = .ok op) (ha : op.addr = some ea)
    (hr : ∀ m, r = .ok m → memRead1 m.addr s = .ok m.val) :
    ∃ v, memRead1 ea s = .ok v ∧ op.val = some v := by
  obtain ⟨m, hm, rfl⟩ := withRef_ok.1 h
  cases ha
  exact ⟨m.val, hr m hm, rfl⟩

/-- Settles O12: by mode; three modes have no address, the others a reference to a byte that was read. -/
theorem operandByteIsRead : Obligations.OperandByteIsRead := by
  intro a mn o s op ea hd ha
  cases o with
  | impl | acc | imm =>
    cases hd
    cases ha
  | mem m => exact read_of_withRef hd ha fun _ => resolveMem_read
  | rel d => exact read_of_withRef hd ha fun _ h => (resolveRel_read h).1
  | ind w => exact read_of_withRef hd ha fun _ h => (resolveInd_read h).1

/-! ### What decoding depends on -/

theorem fetchAt_congr {s t : State} (hr : t.ram = s.ram) (hc : t.cart = s.cart) (a : Word) :
    fetchAt a t = fetchAt a s := by
  simp only [fetchAt, memRead1_congr hr hc, memRead2_congr hr hc]

theorem decodeAt_congr {s t : State} (ha : t.ac = s.ac) (hx : t.x = s.x) (hy : t.y = s.y)
    (hr : t.ram = s.ram) (hc : t.cart = s.cart) (a : Word) : decodeAt a t = decodeAt a s := by
  simp only [decodeAt, describeInstr, fetchAt_congr hr hc, describe_congr ha hx hy hr hc]

/-- Settles O13: every read of the decoder is of AC, X, Y or the bus, and the lookahead only decodes. -/
theorem decodeReadsIndexAndBus : Obligations.DecodeReadsIndexAndBus := by
  intro s t ha hx hy hr hc a
  have hdec := decodeAt_congr ha hx hy hr hc
  refine ⟨hdec a, fun n => ?_⟩
  induction n generalizing a with
  | zero => rfl
  | succ n ih => simp only [decodeN, hdec, ih]

/-! ### The lookahead -/

theorem decodeN_succ_error {a : Word} {s : State} {f : Fault} (h : decodeAt a s = .error f) (n : Nat) :
    decodeN (n + 1) a s = .error f := by
  rw [decodeN, h]

section
variable {p : OpenParams} {a : Word} {s : State}

theorem decodeNUnder_succ_fault {f : Fault} (h : decodeUnder p a s = .fault f) (n : Nat) :
    decodeNUnder p (n + 1) a s = .fault f := by
  rw [decodeNUnder, h]

theorem decodeNUnder_succ_refused {r : Refusal} (h : decodeUnder p a s = .refused r) (n : Nat) :
    decodeNUnder p (n + 1) a s = .refused r := by
  rw [decodeNUnder, h]

variable {op : DecodedOp} (hd : decodeUnder p a s = .next op) {n : Nat}
include hd

theorem decodeNUnder_succ_of_next {ops : List DecodedOp}
    (h : decodeNUnder p n (a + BitVec.ofNat 16 op.length) s = .next ops) :
    decodeNUnder p (n + 1) a s = .next (op :: ops) := by
  simp only [decodeNUnder, hd, h]

theorem decodeNUnder_succ_of_fault {f : Fault}
    (h : decodeNUnder p n (a + BitVec.ofNat 16 op.length) s = .fault f) :
    decodeNUnder p (n + 1) a s = .fault f := by
  simp only [decodeNUnder, hd, h]

theorem decodeNUnder_succ_of_refused {r : Refusal}
    (h : decodeNUnder p n (a + BitVec.ofNat 16 op.length) s = .refused r) :
    decodeNUnder p (n + 1) a s = .refused r := by
  simp only [decodeNUnder, hd, h]

end

theorem length_of_decodeNUnder {p : OpenParams} {n : Nat} {a : Word} {s : State} {ops : List DecodedOp}
    (h : decodeNUnder p n a s = .next ops) : ops.length = n := by
  induction n generalizing a ops with
  | zero =>
    cases h
    rfl
  | succ n ih =>
    cases hd : decodeUnder p a s with
    | fault f => cases (decodeNUnder_succ_fault hd n).symm.trans h
    | refused r => cases (decodeNUnder_succ_refused hd n).symm.trans h
    | next op =>
      cases hn : decodeNUnder p n (a + BitVec.ofNat 16 op.length) s with
      | fault f => cases (decodeNUnder_succ_of_fault hd hn).symm.trans h
      | refused r => cases (decodeNUnder_succ_of_refused hd hn).symm.trans h
      | next rest =>
        cases (decodeNUnder_succ_of_next hd hn).symm.trans h
        exact congrArg (· + 1) (ih hn)

/-- The lookahead of `step`'s machine is the one at its own parameters, so it has as many records. -/
theorem length_of_decodeN {n : Nat} {a : Word} {s : State} {ops : List DecodedOp}
    (h : decodeN n a s = .ok ops) : ops.length = n :=
  length_of_decodeNUnder ((decodeNUnder_openParams n a s).trans (congrArg outcomeOf h))

/-- Settles O14: by the equations of the two lookaheads. -/
theorem lookaheadRepeatsDecode : Obligations.LookaheadRepeatsDecode := by
  intro a s
  refine ⟨rfl, fun n f h => decodeN_succ_error h n, fun n op hd => ⟨fun f h => ?_, fun ops h => ?_⟩,
    fun n ops => length_of_decodeN, fun p => ⟨rfl, fun n f h => decodeNUnder_succ_fault h n,
      fun n op hd => ⟨fun f => decodeNUnder_succ_of_fault hd, fun ops => decodeNUnder_succ_of_next hd⟩,
      fun n ops => length_of_decodeNUnder⟩⟩
  all_goals simp only [decodeN, hd, h]

end Sys2Proof.Machine
end

section
/-! The fetch: the instruction whose bytes stand at an address, the illegal bytes, and the first read that
fails. -/

namespace Sys2Proof.Machine

/-! ### The fetch -/

/-- The bytes that stand at an address are fetched as they decode (R121, R161). -/
theorem fetchAt_of_decode {bs : List Byte} {i : Instr} {a : Word} {s : State}
    (hd : decode bs = .ok (i, [])) (hh : s.holdsAt a bs) : fetchAt a s = .ok i := by
  obtain ⟨b, rfl, hs⟩ | ⟨b, nn, k, rfl, hs, rfl⟩ | ⟨b, ll, hi, k, rfl, hs, rfl⟩ := decode_cases hd
  · have hop : memRead1 a s = .ok b := hh
    simp only [fetchAt, hop, hs]
  · obtain ⟨hop, hnn⟩ := hh
    simp only [fetchAt, hop, hs, hnn]
  · obtain ⟨hop, hw⟩ := hh
    simp only [fetchAt, hop, hs, hw]

/-- An instruction whose encoding stands at an address is fetched there. -/
theorem fetchAt_of_encode {i : Instr} {a : Word} {s : State} (hw : i.wf = true)
    (hh : s.holdsAt a (encode i)) : fetchAt a s = .ok i := by
  have hd := decodeInvertsEncode i [] hw
  rw [List.append_nil] at hd
  exact fetchAt_of_decode hd hh

theorem decodeAt_of_fetch {a : Word} {i : Instr} {s : State} (h : fetchAt a s = .ok i) :
    decodeAt a s = describeInstr a i s := by
  rw [decodeAt, h]

theorem decodeAt_of_fetch_error {a : Word} {s : State} {f : Fault} (h : fetchAt a s = .error f) :
    decodeAt a s = .error f := by
  rw [decodeAt, h]

theorem step_of_fetch {i : Instr} {s : State} (h : fetchAt s.pc s = .ok i) : step s = exec i s := by
  rw [step, h]

theorem describeInstr_of_form {i : Instr} {mn : Mnemonic} {o : Operand} (hf : i.form = some (mn, o))
    (a : Word) (s : State) : describeInstr a i s = describe a mn o s := by
  rw [describeInstr, hf]

/-! ### Illegal bytes -/

/-- An illegal byte is a whole instruction (R141). -/
theorem decode_illegal {b : Byte} (hb : b ∈ illegalBytes) (rest : List Byte) :
    decode (b :: rest) = .ok (.illegal b, rest) :=
  decode_one ((decodeOpcode_illegal b).1 hb) rest

theorem fetchAt_illegal {b : Byte} {a : Word} {s : State} (hb : b ∈ illegalBytes)
    (h : memRead1 a s = .ok b) : fetchAt a s = .ok (.illegal b) :=
  fetchAt_of_decode (bs := [b]) (decode_illegal hb []) h

/-- Settles O6: an illegal byte decodes, and is fetched, with no byte after it. -/
theorem illegalBytesFault : Obligations.IllegalBytesFault := by
  refine ⟨fun b rest => ⟨fun hb => decode_illegal hb rest, fun h => ?_⟩, fun b s => rfl,
    fun b a s hb hread => ?_⟩
  · obtain ⟨-, hw⟩ := encodeInvertsDecode _ _ _ h
    exact List.contains_iff_mem.1 hw
  · have hfetch := fetchAt_illegal hb hread
    have hdec : decodeAt a s = .error (.illegalOpcode a b) := decodeAt_of_fetch hfetch
    refine ⟨hdec, decodeN_succ_error hdec, ?_⟩
    rintro rfl
    exact step_of_fetch hfetch

/-! ### The first read that fails -/

/-- An error of the description at `pc` is the error of the execution (R141, R200). -/
theorem exec_of_describeInstr_error {i : Instr} {s : State} {f : Fault}
    (h : describeInstr s.pc i s = .error f) : exec i s = .fault f := by
  cases hf : i.form with
  | some p =>
    rw [describeInstr_of_form hf] at h
    exact exec_error hf h
  | none =>
    obtain ⟨b, rfl⟩ := eq_illegal_of_form_eq_none hf
    cases h
    rfl

/-- An error of Decode at `pc` is the error of the step (R200, R311). -/
theorem step_of_decodeAt_error {s : State} {f : Fault} (h : decodeAt s.pc s = .error f) :
    step s = .fault f := by
  cases hfetch : fetchAt s.pc s with
  | error f' =>
    rw [decodeAt_of_fetch_error hfetch] at h
    cases h
    rw [step, hfetch]
  | ok i =>
    rw [decodeAt_of_fetch hfetch] at h
    rw [step_of_fetch hfetch]
    exact exec_of_describeInstr_error h

/-- The opcode byte is read first (R161, R183). -/
theorem decodeAt_opcode_error {a : Word} {s : State} {f : Fault} (h : memRead1 a s = .error f) :
    decodeAt a s = .error f :=
  decodeAt_of_fetch_error (by rw [fetchAt, h])

/-- An instruction with operand bytes is well formed: an illegal one has none (R141). -/
theorem wf_of_encode {i : Instr} {op b : Byte} {l : List Byte} (h : encode i = op :: b :: l) : i.wf = true := by
  cases hf : i.form with
  | some p => exact wf_of_form hf
  | none =>
    obtain ⟨c, rfl⟩ := eq_illegal_of_form_eq_none hf
    cases h

/-- The operand of a two-byte instruction is one byte read (R161). -/
theorem decodeAt_operand_error {i : Instr} {b : Byte} {a : Word} {s : State} {f : Fault}
    (he : encode i = [i.opcode, b]) (hop : memRead1 a s = .ok i.opcode)
    (h : memRead1 (a + 1) s = .error f) : decodeAt a s = .error f := by
  cases fromShape_of_wf (wf_of_encode he) with
  | one hs he' => cases he.symm.trans he'
  | two hs => exact decodeAt_of_fetch_error (by simp only [fetchAt, hop, hs, h])
  | three hs he' => cases he.symm.trans he'

/-- The operand of a three-byte instruction is one 16-bit read (R161). -/
theorem decodeAt_wordOperand_error {i : Instr} {b c : Byte} {a : Word} {s : State} {f : Fault}
    (he : encode i = [i.opcode, b, c]) (hop : memRead1 a s = .ok i.opcode)
    (h : memRead2 (a + 1) s = .error f) : decodeAt a s = .error f := by
  cases fromShape_of_wf (wf_of_encode he) with
  | one hs he' => cases he.symm.trans he'
  | two hs he' => cases he.symm.trans he'
  | three hs => exact decodeAt_of_fetch_error (by simp only [fetchAt, hop, hs, h])

/-- After the fetch the operand is resolved (R182). -/
theorem decodeAt_resolution_error {i : Instr} {mn : Mnemonic} {o : Operand} {a : Word} {s : State}
    {f : Fault} (hf : i.form = some (mn, o)) (hh : s.holdsAt a (encode i))
    (h : describe a mn o s = .error f) : decodeAt a s = .error f := by
  rw [decodeAt_of_fetch (fetchAt_of_encode (wf_of_form hf) hh), describeInstr_of_form hf, h]

/-- Settles O16: the reads of an instruction in their order. -/
theorem firstFailedReadEndsStep : Obligations.FirstFailedReadEndsStep :=
  ⟨fun _ _ => step_of_decodeAt_error, fun _ _ _ => decodeAt_opcode_error,
    fun _ _ _ _ _ => decodeAt_operand_error, fun _ _ _ _ _ _ => decodeAt_wordOperand_error,
    fun _ _ _ _ _ _ => decodeAt_resolution_error,
    fun s _ mn w f hf hh h =>
      step_of_decodeAt_error (decodeAt_resolution_error hf hh ((describe_abs s.pc mn w s).2 f h))⟩

end Sys2Proof.Machine
end

section
/-! JMP through a pointer: the pointer's reads in each part of the address map, and the jump under each value of
the OPEN parameter. -/

namespace Sys2Proof.Machine

/-! ### The reads of a pointer -/

/-- The low byte of a 16-bit read is the byte at its address, in the PPU region too (R86, R93). -/
theorem memRead1_of_memRead2 {a w : Word} {s : State} (h : memRead2 a s = .ok w) :
    memRead1 a s = .ok (lowByte w) := by
  by_cases hp : 0x2000 ≤ a.toNat ∧ a.toNat < 0x4000
  · cases (memRead2_ppu hp.1 hp.2 s).symm.trans h
    exact memRead1_ppu hp.1 hp.2 s
  · exact (memRead2_halves h (by omega)).1

/-- Off the end of a page no block ends, so where the byte reads answer, so does the 16-bit read (R96). -/
theorem memRead2_answers_off_pageEnd {a : Word} {lo : Byte} {s : State} (hend : a.toNat % 256 ≠ 255)
    (h : memRead1 a s = .ok lo) : ∃ w, memRead2 a s = .ok w := by
  rcases address_cases a s with hr | ⟨hp, hp'⟩ | hr | ⟨h1, h2, m, hm⟩ | ⟨h1, h2, hm⟩
  · exact memRead2_answers (.inl hr) (by omega)
  · exact ⟨_, memRead2_ppu hp hp' s⟩
  · have hz : s.cart.prgLen ≠ 0 := by
      intro hz
      rw [memRead1_rom hr, if_pos hz] at h
      cases h
    have hlen : s.cart.prgLen = s.cart.prgUnits.toNat * 16384 := rfl
    have hmod : (a.toNat - 0x8000) % s.cart.prgLen % 256 = (a.toNat - 0x8000) % 256 :=
      Nat.mod_mod_of_dvd _ (hlen ▸ Dvd.intro_left (s.cart.prgUnits.toNat * 64) (by omega))
    refine memRead2_rom_answers hr hz ?_ ?_
    · omega
    · rintro rfl
      exact hend rfl
  · exact memRead2_answers (.inr ⟨h1, h2, by rw [hm]; rfl⟩) (by omega)
  · cases (memRead1_unbacked h1 h2 hm).symm.trans h

/-- Off the end of a page a 16-bit read is the two bytes, low byte first (R86, R93, R96). -/
theorem memRead2_of_reads {a : Word} {lo hi : Byte} {s : State} (hend : a.toNat % 256 ≠ 255)
    (hlo : memRead1 a s = .ok lo) (hhi : memRead1 (a + 1) s = .ok hi) :
    memRead2 a s = .ok (wordOf hi lo) := by
  have hsucc := succ_toNat_of_lt (a := a) (by omega)
  by_cases hp : 0x2000 ≤ a.toNat ∧ a.toNat < 0x4000
  · cases (memRead1_ppu hp.1 hp.2 s).symm.trans hlo
    cases (memRead1_ppu (by omega) (by omega) s).symm.trans hhi
    exact memRead2_ppu hp.1 hp.2 s
  · obtain ⟨w, hw⟩ := memRead2_answers_off_pageEnd hend hlo
    obtain ⟨hlo', hhi'⟩ := memRead2_halves hw (by omega)
    cases hlo.symm.trans hlo'
    cases hhi.symm.trans hhi'
    rw [hw, wordOf_high_low]

/-- A page lies in one part of the address map: where its last byte can be read, so can its first (R91). -/
theorem memRead1_pageStart {a : Word} {lo : Byte} {s : State} (hend : a.toNat % 256 = 255)
    (h : memRead1 a s = .ok lo) : ∃ hi, memRead1 (a - 255) s = .ok hi := by
  have hsub : (a - 255).toNat = a.toNat - 255 := by
    rw [BitVec.toNat_sub, show (255 : Word).toNat = 255 from rfl]
    omega
  rcases address_cases a s with hr | ⟨hp, hp'⟩ | hr | ⟨h1, h2, m, hm⟩ | ⟨h1, h2, hm⟩
  · exact ⟨_, memRead1_ram (by omega) s⟩
  · exact ⟨_, memRead1_ppu (by omega) (by omega) s⟩
  · rw [memRead1_rom hr] at h
    rw [memRead1_rom (by omega)]
    split at h
    · cases h
    · next hz => exact ⟨_, if_neg hz⟩
  · exact ⟨_, memRead1_prgRam (by omega) (by omega) hm⟩
  · cases (memRead1_unbacked h1 h2 hm).symm.trans h

/-! ### The pointer read under each value of the parameter -/

/-- A pointer that cannot be read is the error of its own read, of one width or the other (R177; log 8). -/
theorem readPointer_unreadable {ptr : Word} {s : State} {f : Fault} (h : memRead1 ptr s = .error f)
    (p : PageWrapPolicy) : ∃ wd, readPointer p ptr s = .error (.addressOutOfRange ptr.toNat wd) := by
  obtain ⟨rfl, h2⟩ := memRead1_error h
  rcases readPointer_cases p ptr s with hp | ⟨-, -, hp⟩
  · exact ⟨.two, hp.trans h2⟩
  · exact ⟨.one, by rw [hp, readPointerInPage, h]⟩

/-- The two targets of a pointer at the end of a page: straight on, or within the page (R177). -/
def PageEndTarget (ptr ea : Word) (s : State) : Prop :=
  memRead1 ptr s = .ok (lowByte ea) ∧
    (memRead2 ptr s = .ok ea ∨ memRead1 (ptr - 255) s = .ok (highByte ea))

theorem pageEndTarget_of_readPointer {p : PageWrapPolicy} {ptr ea : Word} {s : State}
    (hend : ptr.toNat % 256 = 255) (h : readPointer p ptr s = .ok ea) : PageEndTarget ptr ea s := by
  rcases readPointer_cases p ptr s with hp | ⟨-, -, hp⟩
  · have h2 := hp.symm.trans h
    exact ⟨memRead1_of_memRead2 h2, .inl h2⟩
  · obtain ⟨hl, hh⟩ := readPointerInPage_reads hend (hp.symm.trans h)
    exact ⟨hl, .inr hh⟩

/-- Within a page the first of the two reads is the one that can fail (R177). -/
theorem readPointerInPage_error {ptr : Word} {s : State} {f : Fault} (hend : ptr.toNat % 256 = 255) :
    readPointerInPage ptr s = .error f ↔ memRead1 ptr s = .error f := by
  cases hlo : memRead1 ptr s with
  | error f' => simp only [readPointerInPage, hlo, Except.error.injEq]
  | ok lo =>
    obtain ⟨hi, hhi⟩ := memRead1_pageStart hend hlo
    simp only [readPointerInPage, hlo, pageStart hend, hhi, reduceCtorEq]

theorem read_error_of_readPointer {p : PageWrapPolicy} {ptr : Word} {s : State} {f : Fault}
    (hend : ptr.toNat % 256 = 255) (h : readPointer p ptr s = .error f) :
    memRead1 ptr s = .error f ∨ memRead2 ptr s = .error f := by
  rcases readPointer_cases p ptr s with hp | ⟨-, -, hp⟩
  · exact .inr (hp.symm.trans h)
  · exact .inl ((readPointerInPage_error hend).1 (hp.symm.trans h))

/-- A record of mode `ind` at the end of a page is that of one of the two targets (R177; log 2). -/
theorem describe_ind_pageEnd {a ptr : Word} {mn : Mnemonic} {s : State} {op : DecodedOp}
    (hend : ptr.toNat % 256 = 255) (h : describe a mn (.ind ptr) s = .ok op) :
    ∃ ea v, op.addr = some ea ∧ memRead1 ea s = .ok v ∧ op.val = some v ∧ op.base = none ∧
      PageEndTarget ptr ea s := by
  cases hp : readPointer Config.openParams.pageWrap ptr s with
  | error f => cases (describe_ind_error hp a mn).symm.trans h
  | ok ea =>
    have hd := describe_ind hp a mn
    cases hv : memRead1 ea s with
    | error f => cases (hd.2 f hv).symm.trans h
    | ok v =>
      obtain ⟨op', he, ha, hval, hb⟩ := hd.1 v hv
      cases he.symm.trans h
      exact ⟨ea, v, ha, hv, hval, hb, pageEndTarget_of_readPointer hend hp⟩

/-- An error of mode `ind` at the end of a page is that of a read of the pointer or of a target (R177). -/
theorem describe_ind_pageEnd_error {a ptr : Word} {mn : Mnemonic} {s : State} {f : Fault}
    (hend : ptr.toNat % 256 = 255) (h : describe a mn (.ind ptr) s = .error f) :
    memRead1 ptr s = .error f ∨ memRead2 ptr s = .error f ∨
      ∃ ea, memRead1 ea s = .error f ∧ PageEndTarget ptr ea s := by
  cases hp : readPointer Config.openParams.pageWrap ptr s with
  | error f' =>
    cases (describe_ind_error hp a mn).symm.trans h
    rw [← or_assoc]
    exact .inl (read_error_of_readPointer hend hp)
  | ok ea =>
    have hd := describe_ind hp a mn
    cases hv : memRead1 ea s with
    | error f' =>
      cases (hd.2 f' hv).symm.trans h
      exact .inr (.inr ⟨ea, hv, pageEndTarget_of_readPointer hend hp⟩)
    | ok v =>
      obtain ⟨op, he, -⟩ := hd.1 v hv
      cases he.symm.trans h

/-! ### The jump under each value of the parameter -/

section
variable {ptr : Word} (hend : ptr.toNat % 256 ≠ 255)
include hend

theorem readPointer_off_pageEnd (p : PageWrapPolicy) (s : State) : readPointer p ptr s = memRead2 ptr s :=
  readPointer_of_ne (mt lowByte_eq_FF.1 hend) p s

/-- Off the end of a page no value of the parameter refuses, and none bears on the operand (R177; log 8). -/
theorem jmpInd_off_pageEnd (p q : PageWrapPolicy) (s : State) :
    pointerRefused p ptr = false ∧ resolveInd p ptr s = resolveInd q ptr s := by
  refine ⟨Bool.eq_false_iff.2 fun h => hend (pointerRefused_iff.1 h).1, ?_⟩
  rw [resolveInd, resolveInd, readPointer_off_pageEnd hend, readPointer_off_pageEnd hend]

theorem execUnder_jmpInd_off_pageEnd (p : OpenParams) (s : State) :
    execUnder p (.jmpInd ptr) s = exec (.jmpInd ptr) s := by
  obtain ⟨hr, hres⟩ := jmpInd_off_pageEnd hend p.pageWrap Config.openParams.pageWrap s
  rw [execUnder_jmpInd, runJumpInd, hr, hres]
  exact (execJmpInd_eq ptr s).symm

theorem decodeUnder_jmpInd_off_pageEnd {a : Word} {s : State} (hh : s.holdsAt a (encode (.jmpInd ptr)))
    (p : OpenParams) : decodeUnder p a s = outcomeOf (decodeAt a s) := by
  obtain ⟨hr, hres⟩ := jmpInd_off_pageEnd hend p.pageWrap Config.openParams.pageWrap s
  rw [decodeUnder_of_fetch (fetchAt_jmpInd hh), describeUnder_jmpInd, hr, hres,
    decodeAt_of_fetch (fetchAt_jmpInd hh)]
  rfl

end

/-- Where the parameter gives a meaning and the pointer can be read, JMP `ind` goes to the target or fails
as the read there fails (R177, R350). -/
theorem jmpInd_of_pointer {p : OpenParams} {ptr ea : Word} {s : State} (hne : p.pageWrap ≠ .refuse)
    (hp : readPointer p.pageWrap ptr s = .ok ea) (a : Word) :
    (∀ v, memRead1 ea s = .ok v → s.pointerJumps p a ptr ea v) ∧
      ∀ f, memRead1 ea s = .error f → s.pointerFails p a ptr f := by
  have hr := pointerRefused_of_ne (ptr := ptr) hne
  exact ⟨fun v => pointerJumps_of_reads hr hp,
    fun f hf => pointerFails_of_resolve hr ((resolveInd_of_pointer hp).trans (refAt_error hf none))⟩

theorem decodeUnder_jmpInd_refused {p : OpenParams} {a ptr : Word} {s : State} (hp : p.pageWrap = .refuse)
    (hend : ptr.toNat % 256 = 255) (hh : s.holdsAt a (encode (.jmpInd ptr))) :
    decodeUnder p a s = .refused (.jmpIndPageWrap ptr) := by
  rw [decodeUnder_of_fetch (fetchAt_jmpInd hh), describeUnder_jmpInd, pointerRefused_iff.2 ⟨hend, hp⟩]
  rfl

/-- Settles O10: off the end of a page by the 16-bit read of the pointer, at its end by the pointer read of
each value of the parameter. -/
theorem pointerOperandResolves : Obligations.PointerOperandResolves := by
  intro a ptr mn s
  refine ⟨fun f h => ?_, fun hend => ⟨fun f h => ?_, fun lo hi hlo hhi => ?_, fun p => ?_⟩,
    fun hend => ⟨fun op => describe_ind_pageEnd hend, fun f => describe_ind_pageEnd_error hend,
      fun p hp => ?_, fun p hp => ?_, fun p hp => ?_⟩⟩
  · obtain ⟨wd, hp⟩ := readPointer_unreadable h Config.openParams.pageWrap
    exact ⟨wd, describe_ind_error hp a mn⟩
  · exact describe_ind_error ((readPointer_off_pageEnd hend _ s).trans h) a mn
  · exact describe_ind ((readPointer_off_pageEnd hend _ s).trans
      (memRead2_of_reads hend hlo hhi)) a mn
  · exact ⟨execUnder_jmpInd_off_pageEnd hend p s, fun hh => decodeUnder_jmpInd_off_pageEnd hend hh p⟩
  · have hne : p.pageWrap ≠ .refuse := by rw [hp]; decide
    have hread : readPointer p.pageWrap ptr s = readPointerInPage ptr s := by
      rw [hp, readPointer_wrap hend]
    refine ⟨fun f h => ?_, fun lo => memRead1_pageStart hend, fun ea hl hh =>
      jmpInd_of_pointer hne (hread.trans (readPointerInPage_ok hend hl hh)) a⟩
    exact pointerFails_of_resolve (pointerRefused_of_ne hne)
      (resolveInd_error (hread.trans ((readPointerInPage_error hend).2 h)))
  · have hne : p.pageWrap ≠ .refuse := by rw [hp]; decide
    have hread : readPointer p.pageWrap ptr s = memRead2 ptr s := by rw [hp, readPointer_straight]
    exact ⟨fun f h => pointerFails_of_resolve (pointerRefused_of_ne hne)
      (resolveInd_error (hread.trans h)), fun ea h => jmpInd_of_pointer hne (hread.trans h) a⟩
  · refine ⟨?_, fun hh => ?_, fun b op n hd => decodeNUnder_succ_of_refused hd⟩
    · rw [execUnder_jmpInd, hp, runJumpInd_refused hend]
    · have hd := decodeUnder_jmpInd_refused hp hend hh
      exact ⟨hd, decodeNUnder_succ_refused hd⟩

end Sys2Proof.Machine
end

section
/-! The step and the instruction it runs, the branches, Push and Pull. -/

namespace Sys2Proof.Machine

/-! ### The step and its instruction -/

/-- `exec` is the execution under the parameters of the machine that `step` runs (R7; log 1, log 2). -/
theorem execUnder_openParams (i : Instr) (s : State) : execUnder Config.openParams i s = exec i s := by
  by_cases hj : ∃ w, i = .jmpInd w
  · obtain ⟨w, rfl⟩ := hj
    exact execUnder_jmpInd _ w s
  · by_cases hb : i = .brk
    · subst hb
      exact execUnder_brk _ s
    · exact execUnder_of_ne (fun w hw => hj ⟨w, hw⟩) hb _ s

/-- Settles O15: the bytes that stand at `pc` are fetched as they decode. -/
theorem stepRunsDecodedInstruction : Obligations.StepRunsDecodedInstruction := by
  refine ⟨fun s bs i hd hh => ?_, execUnder_openParams⟩
  have hfetch := fetchAt_of_decode hd hh
  exact ⟨step_of_fetch hfetch, stepUnder_of_fetch hfetch⟩

/-- A Decode that answers fetched an instruction of the tables and resolved its operand (R121). -/
theorem decodeAt_ok {a : Word} {s : State} {op : DecodedOp} (h : decodeAt a s = .ok op) :
    ∃ i mn o, fetchAt a s = .ok i ∧ i.form = some (mn, o) ∧ describe a mn o s = .ok op := by
  unfold decodeAt at h
  split at h
  · cases h
  · next i hfetch =>
    unfold describeInstr at h
    split at h
    · next mn o hf => exact ⟨i, mn, o, hfetch, hf, h⟩
    · cases h

/-- Settles O17: the operand of the instruction fetched at `pc` resolves, and then all but BRK answer. -/
theorem stepAnswersAfterDecode : Obligations.StepAnswersAfterDecode := by
  intro s op hd hb
  obtain ⟨i, mn, o, hfetch, hf, hres⟩ := decodeAt_ok hd
  obtain ⟨rfl, -⟩ := describe_shape hres
  obtain ⟨t, ht, -⟩ := exec_resolves ⟨o, hf, hres⟩ hb rfl
  exact ⟨t, (step_of_fetch hfetch).trans ht⟩

/-- Settles O28: by the flags of SetZN. -/
theorem zeroNegativeFollowByte : Obligations.ZeroNegativeFollowByte := fun v sr =>
  ⟨getFlag_zero_setZN v sr, getFlag_negative_setZN v sr, fun _ hz hn => getFlag_setZN_other hz hn v sr⟩

/-- The mnemonics of R206 are branches, on the flag and the value of the table. -/
theorem effectOf_of_branchTest {mn : Mnemonic} {flag : Flag} {want : Bool}
    (h : branchTest mn = some (flag, want)) : effectOf mn = .branch flag want ∧ mn ≠ .BRK := by
  cases mn <;> cases h <;> exact ⟨rfl, nofun⟩

/-- Settles O39: a branch is of the kind that tests its flag. -/
theorem branchesTestTheirFlag : Obligations.BranchesTestTheirFlag := by
  intro i mn flag want s op htest hres
  obtain ⟨he, hb⟩ := effectOf_of_branchTest htest
  obtain ⟨t, ht, tgt, haddr, hbase, rfl⟩ := exec_resolves hres hb he
  exact ⟨tgt, haddr, hbase, ht⟩

/-! ### Push and Pull -/

/-- Two stack pointers that designate one cell are equal: no two bytes of the stack page share a cell (R92,
R209). -/
theorem stackAddr_sameCell {p q : Byte} (h : sameCell (stackAddr p) (stackAddr q)) : p = q := by
  have hmod : (stackAddr p).toNat % 0x800 = (stackAddr q).toNat % 0x800 := by
    rcases h with h | ⟨-, -, h⟩
    · rw [h]
    · exact h
  rw [stackAddr_mod, stackAddr_mod] at hmod
  exact BitVec.eq_of_toNat_eq (by omega)

/-- A 16-bit push that answers is two pushes, high byte first (R209). -/
theorem pushWord_ok {w : Word} {s t : State} (h : pushWord w s = .ok t) :
    ∃ u, push (highByte w) s = .ok u ∧ u.sp = s.sp - 1 ∧ push (lowByte w) u = .ok t := by
  unfold pushWord at h
  split at h
  · next u hu => exact ⟨u, hu, by rw [(push_stored hu).2], h⟩
  · cases h

/-- A 16-bit push changes RAM and the stack pointer alone (R209). -/
theorem pushWord_keeps {w : Word} {s t : State} (h : pushWord w s = .ok t) :
    t = { s with ram := t.ram, sp := s.sp - 2 } := by
  rw [pushWord_eq, Except.ok.injEq] at h
  subst h
  rfl

/-- A push changes no byte but that of the stack pointer (R209). -/
theorem push_frame {v : Byte} {s t : State} (h : push v s = .ok t) {b : Word}
    (hb : ¬ sameCell (stackAddr s.sp) b) : memRead1 b t = memRead1 b s :=
  (push_stored h).1.1 b hb

/-- A 16-bit push changes no byte but those of the stack pointer and of the one below (R209). -/
theorem pushWord_frame {w : Word} {s t : State} (h : pushWord w s = .ok t) {b : Word}
    (hb : ¬ sameCell (stackAddr s.sp) b) (hb' : ¬ sameCell (stackAddr (s.sp - 1)) b) :
    memRead1 b t = memRead1 b s := by
  obtain ⟨u, hhi, hsp, hlo⟩ := pushWord_ok h
  exact (push_frame hlo (hsp ▸ hb')).trans (push_frame hhi hb)

/-- A byte pushed in a memory in canonical form reads back at the old stack pointer (R209). -/
theorem memRead1_push {v : Byte} {s t : State} (h : push v s = .ok t) (hw : s.wf = true) :
    memRead1 (stackAddr s.sp) t = .ok v :=
  (push_stored h).1.2.1 hw (.inl (stackAddr_lt _)) _ (.inl rfl)

/-- A pushed word reads back: high byte at the old stack pointer, low byte below it (R209). -/
theorem memRead1_pushWord {w : Word} {s t : State} (h : pushWord w s = .ok t) (hw : s.wf = true) :
    memRead1 (stackAddr s.sp) t = .ok (highByte w) ∧
      memRead1 (stackAddr (s.sp - 1)) t = .ok (lowByte w) := by
  obtain ⟨u, hhi, hsp, hlo⟩ := pushWord_ok h
  have hother : ¬ sameCell (stackAddr u.sp) (stackAddr s.sp) := fun hc => by
    have := stackAddr_sameCell hc
    bv_omega
  refine ⟨(push_frame hlo hother).trans (memRead1_push hhi hw), ?_⟩
  rw [← hsp]
  exact memRead1_push hlo (push_wf hhi hw)

/-- Settles O49: pushes and pulls are accesses to RAM. -/
theorem stackStaysInItsPage : Obligations.StackStaysInItsPage := by
  refine ⟨stackAddr_toNat, fun v s => ?_, fun w s => ?_, fun s => ⟨rfl, _, pullByte_eq s, memRead1_stack _ s⟩,
    fun s => ⟨_, _, pullByte_eq s, pullByte_eq (pulled s), pullWord_eq s⟩⟩
  · have h := push_eq v s
    exact ⟨_, h, by simp only [State.setSp_sp]; bv_omega, (push_stored h).1, rfl⟩
  · have h := pushWord_eq w s
    exact ⟨_, h, by simp only [State.setSp_sp]; bv_omega, rfl, memRead1_pushWord h⟩

end Sys2Proof.Machine
end

section
/-! What an instruction of each kind does to the program counter, the count, the registers and the bytes of
memory. -/

namespace Sys2Proof.Machine

/-! ### The tables of the mnemonics by kind -/

/-- The kinds that store a byte at the effective address. -/
def Effect.storesOperand : Effect → Bool
  | .store _ | .modify _ => true
  | _ => false

/-- How many bytes each kind pushes. -/
def Effect.pushes : Effect → Nat
  | .push _ => 1
  | .call => 2
  | .brk => 3
  | _ => 0

/-- The kinds that push or pull. -/
def Effect.movesSp : Effect → Bool
  | .push _ | .pull _ | .call | .ret | .rti | .brk => true
  | _ => false

/-- The kinds that write `pc` themselves. -/
def Effect.transfers : Effect → Bool
  | .branch _ _ | .jump | .call | .ret | .rti | .brk => true
  | _ => false

/-- The forms that store at their operand, by kind (R207, R233 to R235). -/
theorem storesAtOperand_eq (mn : Mnemonic) (md : AddressingMode) :
    storesAtOperand mn md = (decide (md ≠ .acc) && (effectOf mn).storesOperand) := by
  cases mn <;> rfl

/-- The bytes pushed, by kind (R264, R267 to R269). -/
theorem bytesPushed_eq (mn : Mnemonic) : bytesPushed mn = (effectOf mn).pushes := by
  cases mn <;> rfl

/-- The control transfers, by kind (R202). -/
theorem isControlTransfer_eq (mn : Mnemonic) : mn.isControlTransfer = (effectOf mn).transfers := by
  cases mn <;> rfl

/-- The mnemonics that write the stack pointer: TXS, and those of a kind that pushes or pulls. -/
theorem writesSp_eq (mn : Mnemonic) :
    writesSp mn = ((effectOf mn).movesSp || decide (mn = .TXS)) := by
  cases mn <;> rfl

theorem pushes_of_storesOperand {e : Effect} (h : e.storesOperand = true) : e.pushes = 0 := by
  cases e
  case store | modify => rfl
  all_goals cases h

/-- What stores at its operand does not push. -/
theorem bytesPushed_of_storesAtOperand {mn : Mnemonic} {md : AddressingMode}
    (h : storesAtOperand mn md = true) : bytesPushed mn = 0 := by
  rw [storesAtOperand_eq, Bool.and_eq_true] at h
  exact (bytesPushed_eq mn).trans (pushes_of_storesOperand h.2)

@[simp] theorem finished_pc (op : DecodedOp) (s : State) :
    (finished op s).pc = s.pc + BitVec.ofNat 16 op.length := rfl
@[simp] theorem finished_cycles (op : DecodedOp) (s : State) : (finished op s).cycles = op.count := rfl
@[simp] theorem finished_ac (op : DecodedOp) (s : State) : (finished op s).ac = s.ac := rfl
@[simp] theorem finished_x (op : DecodedOp) (s : State) : (finished op s).x = s.x := rfl
@[simp] theorem finished_y (op : DecodedOp) (s : State) : (finished op s).y = s.y := rfl
@[simp] theorem finished_sp (op : DecodedOp) (s : State) : (finished op s).sp = s.sp := rfl

/-! ### The program counter and the count -/

/-- Outside the control transfers an instruction ends by the advance, from a state whose `pc` it left alone
(R200, R201). -/
theorem answers_finished {mn : Mnemonic} {e : Effect} {op : DecodedOp} {s t : State}
    (he : effectOf mn = e) (hn : e.transfers = false) (h : Answers op s t e) :
    ∃ u, u.pc = s.pc ∧ t = finished op u := by
  cases e
  case read f =>
    obtain ⟨m, -, rfl⟩ := h
    obtain ⟨-, -, hpc, -⟩ := read_keeps he m s
    exact ⟨_, hpc, rfl⟩
  case store v =>
    obtain ⟨ea, u, -, hu, rfl⟩ := h
    obtain ⟨-, -, hpc⟩ := memWrite1_registers hu
    exact ⟨u, hpc, rfl⟩
  case modify f =>
    obtain ⟨m, -, ⟨-, -, ht⟩ | ⟨ea, u, -, -, hu, ht⟩⟩ := h
    · exact ⟨(s.setAc (f m s.sr).r).setSr (f m s.sr).sr, rfl, ht⟩
    · obtain ⟨-, -, hpc⟩ := memWrite1_registers hu
      exact ⟨u.setSr (f m s.sr).sr, hpc, ht⟩
  case implied f =>
    obtain ⟨-, -, hpc⟩ := implied_keeps he s
    exact ⟨_, hpc, h⟩
  case push v =>
    obtain ⟨u, hu, rfl⟩ := h
    exact ⟨u, by rw [(push_stored hu).2], rfl⟩
  case pull f =>
    obtain ⟨v, -, rfl⟩ := h
    obtain ⟨-, -, hpc, -⟩ := pull_keeps he v (pulled s)
    exact ⟨_, hpc, rfl⟩
  all_goals cases hn

/-- Settles O25: by the advance with the length of the mode. -/
theorem programCounterAdvances : Obligations.ProgramCounterAdvances := by
  intro i mn o s t hf hn h
  obtain ⟨op, hd, ha⟩ := exec_next hf h
  obtain ⟨-, -, -, hlen, -, -⟩ := describe_shape hd
  obtain ⟨u, hpc, rfl⟩ := answers_finished rfl ((isControlTransfer_eq mn).symm.trans hn) ha
  rw [finished_pc, hpc, hlen, BitVec.toNat_add, BitVec.toNat_ofNat, Nat.add_mod_mod]

/-- The branches are the instructions of mode `rel` (R206). -/
theorem mode_rel_iff_branch {i : Instr} {mn : Mnemonic} {o : Operand} (hf : i.form = some (mn, o)) :
    o.mode = .rel ↔ ∃ flag want, effectOf mn = .branch flag want := by
  have hr := runs_of_form hf
  constructor
  · intro hm
    cases o with
    | rel d =>
      cases he : effectOf mn <;> rw [he] at hr
      case branch flag want => exact ⟨flag, want, rfl⟩
      all_goals exact hr.elim
    | mem m => cases m <;> cases hm
    | _ => cases hm
  · rintro ⟨flag, want, he⟩
    rw [he] at hr
    cases o with
    | rel d => rfl
    | _ => exact hr.elim

/-- Without the page-penalty flag the count is the base count (R205). -/
theorem count_of_not_pagePenalty {op : DecodedOp} (h : op.pagePenalty = false) : op.count = op.cycles := by
  unfold DecodedOp.count
  split
  · simp [h]
  · rfl

/-- The page penalty is at most one cycle, and only with the flag (R205). -/
theorem count_bounds (op : DecodedOp) :
    op.cycles ≤ op.count ∧ op.count ≤ op.cycles + op.pagePenalty.toNat := by
  unfold DecodedOp.count
  split
  · cases op.pagePenalty
    · simp
    · split <;> simp
  · omega

/-- The count of a form without the page-penalty flag is the base count of mnemonic and mode (R137, R205). -/
theorem count_eq_baseCycles {a : Word} {mn : Mnemonic} {o : Operand} {s : State} {op : DecodedOp} {n : Nat}
    (hd : describe a mn o s = .ok op) (hb : baseCycles mn o.mode = n) (hp : pagePenalty mn o.mode = false) :
    op.count = n := by
  obtain ⟨-, -, hcyc, -, hpen, -⟩ := describe_shape hd
  rw [count_of_not_pagePenalty (hpen.trans hp), hcyc, hb]

theorem eq_JSR_of_effect {mn : Mnemonic} (h : effectOf mn = .call) : mn = .JSR := by
  cases mn
  case JSR => rfl
  all_goals cases h

theorem eq_RTS_of_effect {mn : Mnemonic} (h : effectOf mn = .ret) : mn = .RTS := by
  cases mn
  case RTS => rfl
  all_goals cases h

/-- Outside the branches the count is that of the record (R205). -/
theorem answers_cycles {mn : Mnemonic} {o : Operand} {e : Effect} {op : DecodedOp} {s t : State}
    (hd : describe s.pc mn o s = .ok op) (he : effectOf mn = e) (hn : ∀ flag want, e ≠ .branch flag want)
    (h : Answers op s t e) : t.cycles = op.count := by
  cases e
  case branch flag want => exact absurd rfl (hn flag want)
  case jump =>
    obtain ⟨ea, -, rfl⟩ := h
    rfl
  case call =>
    obtain ⟨ea, u, -, -, rfl⟩ := h
    obtain rfl := eq_JSR_of_effect he
    exact (count_eq_baseCycles hd rfl rfl).symm
  case ret =>
    obtain ⟨w, -, rfl⟩ := h
    obtain rfl := eq_RTS_of_effect he
    exact (count_eq_baseCycles hd rfl rfl).symm
  case rti =>
    obtain ⟨u, -, rfl⟩ := h
    obtain rfl := eq_RTI_of_effect he
    exact (count_eq_baseCycles hd rfl rfl).symm
  case brk =>
    obtain ⟨u, -, rfl⟩ := h
    obtain rfl := eq_BRK_of_effect he
    exact (count_eq_baseCycles hd rfl rfl).symm
  all_goals
    obtain ⟨u, -, rfl⟩ := answers_finished he rfl h
    rfl

/-- The count of a branch is 2, 3 or 4 (R206). -/
theorem branch_cycles {op : DecodedOp} {flag : Flag} {want : Bool} {s t : State}
    (h : Answers op s t (.branch flag want)) : 2 ≤ t.cycles ∧ t.cycles ≤ 4 := by
  obtain ⟨tgt, -, -, rfl⟩ := h
  by_cases htaken : getFlag flag s.sr = want
  · rw [if_pos htaken]
    dsimp only
    split <;> decide
  · rw [if_neg htaken]
    exact (by decide : 2 ≤ 2 ∧ 2 ≤ 4)

/-- Settles O26: the count of the record, within the bounds of the base counts; a branch has one of three. -/
theorem stepReturnsCycleCount : Obligations.StepReturnsCycleCount := by
  intro i mn o s t op hf hd h
  obtain ⟨op', hd', ha⟩ := exec_next hf h
  obtain rfl : op' = op := by simpa using hd'.symm.trans hd
  rw [ne_eq, mode_rel_iff_branch hf]
  refine ⟨fun hn => ?_, ?_⟩
  · obtain ⟨-, -, hcyc, -, hpen, -⟩ := describe_shape hd
    obtain ⟨hmin, hmax, hsix⟩ := baseCycles_of_form hf
    obtain ⟨hlow, hhigh⟩ := count_bounds op'
    have hcount := answers_cycles hd rfl (fun flag want he => hn ⟨flag, want, he⟩) ha
    rw [hcyc, hpen] at hhigh
    have hseven : op'.count ≤ 7 := by
      cases hp : pagePenalty mn o.mode with
      | false => exact (hp ▸ hhigh).trans hmax
      | true => exact (hp ▸ hhigh).trans (Nat.succ_le_succ (hsix hp))
    omega
  · rintro ⟨flag, want, he⟩
    rw [he] at ha
    exact branch_cycles ha

/-! ### Which registers change -/

/-- Each of AC, X, Y and SP that the mnemonic does not write in this mode is in `t` what it is in `s`. -/
def UnwrittenKept (mn : Mnemonic) (md : AddressingMode) (s t : State) : Prop :=
  (writesAc mn md = false → t.ac = s.ac) ∧ (writesX mn = false → t.x = s.x) ∧
    (writesY mn = false → t.y = s.y) ∧ (writesSp mn = false → t.sp = s.sp)

theorem unwrittenKept_of_registersKept {mn : Mnemonic} {md : AddressingMode} {s t : State}
    (h : registersKept s t) : UnwrittenKept mn md s t := by
  obtain ⟨hac, hx, hy, hsp⟩ := h
  exact ⟨fun _ => hac, fun _ => hx, fun _ => hy, fun _ => hsp⟩

/-- A stack instruction may move the stack pointer. -/
theorem unwrittenKept_of_movesSp {mn : Mnemonic} {md : AddressingMode} {s t : State}
    (hm : (effectOf mn).movesSp = true) (hac : writesAc mn md = false → t.ac = s.ac) (hx : t.x = s.x)
    (hy : t.y = s.y) : UnwrittenKept mn md s t := by
  refine ⟨hac, fun _ => hx, fun _ => hy, fun hn => ?_⟩
  rw [writesSp_eq, hm] at hn
  cases hn

/-- The mnemonics that read an operand write at most one register, the one they are listed for. -/
theorem read_unwrittenKept {mn : Mnemonic} {f : Byte → State → State} (h : effectOf mn = .read f)
    (md : AddressingMode) (m : Byte) (s : State) : UnwrittenKept mn md s (f m s) := by
  cases mn <;> simp only [effectOf, Effect.read.injEq, reduceCtorEq] at h <;> subst h
  case CMP | CPX | CPY | BIT => exact unwrittenKept_of_registersKept ⟨rfl, rfl, rfl, rfl⟩
  case LDX => exact ⟨fun _ => rfl, nofun, fun _ => rfl, fun _ => rfl⟩
  case LDY => exact ⟨fun _ => rfl, fun _ => rfl, nofun, fun _ => rfl⟩
  all_goals exact ⟨fun hn => by simp [writesAc] at hn, fun _ => rfl, fun _ => rfl, fun _ => rfl⟩

/-- The mnemonics without an operand write at most one register, the one they are listed for. -/
theorem implied_unwrittenKept {mn : Mnemonic} {f : State → State} (h : effectOf mn = .implied f)
    (md : AddressingMode) (s : State) : UnwrittenKept mn md s (f s) := by
  cases mn <;> simp only [effectOf, Effect.implied.injEq, reduceCtorEq] at h <;> subst h
  case INX | DEX | TAX | TSX => exact ⟨fun _ => rfl, nofun, fun _ => rfl, fun _ => rfl⟩
  case INY | DEY | TAY => exact ⟨fun _ => rfl, fun _ => rfl, nofun, fun _ => rfl⟩
  case TXA | TYA => exact ⟨fun hn => by simp [writesAc] at hn, fun _ => rfl, fun _ => rfl, fun _ => rfl⟩
  case TXS => exact ⟨fun _ => rfl, fun _ => rfl, fun _ => rfl, nofun⟩
  all_goals exact unwrittenKept_of_registersKept ⟨rfl, rfl, rfl, rfl⟩

/-- PLA writes the accumulator and PLP does not; neither writes X or Y (R270, R271). -/
theorem pull_registers {mn : Mnemonic} {f : Byte → State → State} (h : effectOf mn = .pull f)
    (md : AddressingMode) (v : Byte) (s : State) :
    (writesAc mn md = false → (f v s).ac = s.ac) ∧ (f v s).x = s.x ∧ (f v s).y = s.y := by
  cases mn <;> simp only [effectOf, Effect.pull.injEq, reduceCtorEq] at h <;> subst h
  case PLA => exact ⟨fun hn => by simp [writesAc] at hn, rfl, rfl⟩
  case PLP => exact ⟨fun _ => rfl, rfl, rfl⟩

/-- The break sequence changes RAM, SP, the flags and `pc` alone (R267). -/
theorem enterBreak_keeps {s t : State} (h : enterBreak s = .ok t) :
    t = { s with ram := t.ram, sp := s.sp - 3, sr := t.sr, pc := t.pc } := by
  unfold enterBreak at h
  cases hv : memRead2 Config.breakVector s with
  | error f =>
    rw [hv] at h
    cases h
  | ok v =>
    cases (enterBreak_eq hv).symm.trans h
    rfl

/-- By kind: each register that the mnemonic is not listed for outlives the instruction. -/
theorem answers_unwrittenKept {mn : Mnemonic} {e : Effect} {op : DecodedOp} {s t : State}
    (he : effectOf mn = e) (h : Answers op s t e) : UnwrittenKept mn op.mode s t := by
  cases e
  case read f =>
    obtain ⟨m, -, rfl⟩ := h
    exact read_unwrittenKept he op.mode m s
  case store v =>
    obtain ⟨ea, u, -, hu, rfl⟩ := h
    exact unwrittenKept_of_registersKept (memWrite1_registers hu).1
  case modify f =>
    obtain ⟨m, -, ⟨hacc, -, rfl⟩ | ⟨ea, u, -, -, hu, rfl⟩⟩ := h
    · exact ⟨fun hn => by simp [writesAc, hacc] at hn, fun _ => rfl, fun _ => rfl, fun _ => rfl⟩
    · exact unwrittenKept_of_registersKept (memWrite1_registers hu).1
  case implied f =>
    obtain rfl := h
    exact implied_unwrittenKept he op.mode s
  case push v =>
    obtain ⟨u, hu, rfl⟩ := h
    rw [(push_stored hu).2]
    exact unwrittenKept_of_movesSp (by rw [he]; rfl) (fun _ => rfl) rfl rfl
  case pull f =>
    obtain ⟨v, -, rfl⟩ := h
    obtain ⟨hac, hx, hy⟩ := pull_registers he op.mode v (pulled s)
    exact unwrittenKept_of_movesSp (by rw [he]; rfl) hac hx hy
  case branch flag want =>
    obtain ⟨tgt, -, -, rfl⟩ := h
    split <;> exact unwrittenKept_of_registersKept ⟨rfl, rfl, rfl, rfl⟩
  case jump =>
    obtain ⟨ea, -, rfl⟩ := h
    exact unwrittenKept_of_registersKept ⟨rfl, rfl, rfl, rfl⟩
  case call =>
    obtain ⟨ea, u, -, hu, rfl⟩ := h
    rw [pushWord_keeps hu]
    exact unwrittenKept_of_movesSp (by rw [he]; rfl) (fun _ => rfl) rfl rfl
  case ret =>
    obtain ⟨w, -, rfl⟩ := h
    exact unwrittenKept_of_movesSp (by rw [he]; rfl) (fun _ => rfl) rfl rfl
  case rti =>
    obtain ⟨u, hu, rfl⟩ := h
    cases (returnFromBreak_eq s).symm.trans hu
    exact unwrittenKept_of_movesSp (by rw [he]; rfl) (fun _ => rfl) rfl rfl
  case brk =>
    obtain ⟨u, hu, rfl⟩ := h
    rw [enterBreak_keeps hu]
    exact unwrittenKept_of_movesSp (by rw [he]; rfl) (fun _ => rfl) rfl rfl

/-- Settles O23: by the kinds of effect. -/
theorem onlyNamedRegistersChange : Obligations.OnlyNamedRegistersChange := by
  intro i mn o s t hf h
  obtain ⟨op, hd, ha⟩ := exec_next hf h
  obtain ⟨-, hmode, -⟩ := describe_shape hd
  rw [← hmode]
  exact answers_unwrittenKept rfl ha

/-! ### Which bytes change -/

/-- Mode `acc` has no effective address (R171). -/
theorem mode_ne_acc_of_addr {a ea : Word} {mn : Mnemonic} {o : Operand} {s : State} {op : DecodedOp}
    (hd : describe a mn o s = .ok op) (ha : op.addr = some ea) : op.mode ≠ .acc := by
  obtain ⟨-, hmode, -⟩ := describe_shape hd
  rw [hmode]
  cases o with
  | acc =>
    cases hd
    cases ha
  | mem m => cases m <;> nofun
  | _ => nofun

/-- The break sequence changes no byte but those of the stack pointer and of the two below (R267). -/
theorem enterBreak_frame {s t : State} (h : enterBreak s = .ok t) {b : Word}
    (hb : ¬ sameCell (stackAddr s.sp) b) (hb' : ¬ sameCell (stackAddr (s.sp - 1)) b)
    (hb'' : ¬ sameCell (stackAddr (s.sp - 2)) b) : memRead1 b t = memRead1 b s := by
  obtain ⟨v, u, w, hu, hw, rfl⟩ := enterBreak_ok h
  have hsp : u.sp = s.sp - 2 := by rw [pushWord_keeps hu]
  calc memRead1 b ((w.setSr (putFlag .interruptDisable true w.sr)).setPc v)
      = memRead1 b w := memRead1_congr rfl rfl b
    _ = memRead1 b u := push_frame hw (hsp ▸ hb'')
    _ = memRead1 b s := pushWord_frame hu hb hb'

/-- By kind: a byte that is neither behind the effective address of a form that stores there nor one of those
pushed outlives the instruction. -/
theorem answers_frame {mn : Mnemonic} {e : Effect} {op : DecodedOp} {s t : State} {b : Word}
    (he : effectOf mn = e) (hacc : ∀ ea, op.addr = some ea → op.mode ≠ .acc)
    (hst : storesAtOperand mn op.mode = true → ∀ ea, op.addr = some ea → ¬ sameCell ea b)
    (hp : ∀ k, k < bytesPushed mn → ¬ sameCell (stackAddr (s.sp - BitVec.ofNat 8 k)) b)
    (h : Answers op s t e) : memRead1 b t = memRead1 b s := by
  have hoperand (ea : Word) (hs : e.storesOperand = true) (ha : op.addr = some ea) : ¬ sameCell ea b := by
    refine hst ?_ ea ha
    rw [storesAtOperand_eq, he, hs, decide_eq_true (hacc ea ha)]
    rfl
  have hpushed (k : Nat) (hk : k < e.pushes) : ¬ sameCell (stackAddr (s.sp - BitVec.ofNat 8 k)) b :=
    hp k (by rwa [bytesPushed_eq, he])
  have htop (hk : 0 < e.pushes) : ¬ sameCell (stackAddr s.sp) b := BitVec.sub_zero s.sp ▸ hpushed 0 hk
  cases e
  case read f =>
    obtain ⟨m, -, rfl⟩ := h
    obtain ⟨hr, hc, -⟩ := read_keeps he m s
    exact memRead1_congr hr hc b
  case store v =>
    obtain ⟨ea, u, ha, hu, rfl⟩ := h
    exact (memWrite1_stored hu).1 b (hoperand ea rfl ha)
  case modify f =>
    obtain ⟨m, -, ⟨-, -, rfl⟩ | ⟨ea, u, -, ha, hu, rfl⟩⟩ := h
    · exact memRead1_congr rfl rfl b
    · exact (memWrite1_stored hu).1 b (hoperand ea rfl ha)
  case implied f =>
    obtain rfl := h
    obtain ⟨hr, hc, -⟩ := implied_keeps he s
    exact memRead1_congr hr hc b
  case push v =>
    obtain ⟨u, hu, rfl⟩ := h
    exact push_frame (t := u) hu (htop Nat.one_pos)
  case pull f =>
    obtain ⟨v, -, rfl⟩ := h
    obtain ⟨hr, hc, -⟩ := pull_keeps he v (pulled s)
    exact memRead1_congr hr hc b
  case branch flag want =>
    obtain ⟨tgt, -, -, rfl⟩ := h
    split <;> exact memRead1_congr rfl rfl b
  case jump =>
    obtain ⟨ea, -, rfl⟩ := h
    exact memRead1_congr rfl rfl b
  case call =>
    obtain ⟨ea, u, -, hu, rfl⟩ := h
    exact pushWord_frame (t := u) hu (htop (by decide)) (hpushed 1 (by decide))
  case ret =>
    obtain ⟨w, -, rfl⟩ := h
    exact memRead1_congr rfl rfl b
  case rti =>
    obtain ⟨u, hu, rfl⟩ := h
    cases (returnFromBreak_eq s).symm.trans hu
    exact memRead1_congr rfl rfl b
  case brk =>
    obtain ⟨u, hu, rfl⟩ := h
    exact enterBreak_frame (t := u) hu (htop (by decide)) (hpushed 1 (by decide)) (hpushed 2 (by decide))

/-- The bytes that an instruction which answers leaves as they were, in the words of its mnemonic and mode. -/
theorem exec_frame {i : Instr} {mn : Mnemonic} {o : Operand} {s t : State} {b : Word}
    (hf : i.form = some (mn, o)) (h : exec i s = .next t)
    (hst : storesAtOperand mn o.mode = true →
      ∀ op ea, describe s.pc mn o s = .ok op → op.addr = some ea → ¬ sameCell ea b)
    (hp : ∀ k, k < bytesPushed mn → ¬ sameCell (stackAddr (s.sp - BitVec.ofNat 8 k)) b) :
    memRead1 b t = memRead1 b s := by
  obtain ⟨op, hd, ha⟩ := exec_next hf h
  obtain ⟨-, hmode, -⟩ := describe_shape hd
  exact answers_frame rfl (fun _ => mode_ne_acc_of_addr hd) (fun hs ea => hst (hmode ▸ hs) op ea hd) hp ha

/-- Settles O24: the frame of every instruction, at forms that change nothing, that store, and that push. -/
theorem onlyStoredBytesChange : Obligations.OnlyStoredBytesChange := by
  intro i mn o s t hf h
  refine ⟨fun hn hz b => ?_, fun hs op ea hd ha b hb => ?_, fun hn b hb => ?_⟩
  · exact exec_frame hf h (fun hs => by simp [hn] at hs) (fun k hk => by omega)
  · have hz := bytesPushed_of_storesAtOperand hs
    refine exec_frame hf h (fun _ op' ea' hd' ha' => ?_) (fun k hk => by omega)
    cases hd.symm.trans hd'
    cases ha.symm.trans ha'
    exact hb
  · exact exec_frame hf h (fun hs => by simp [hn] at hs) hb

end Sys2Proof.Machine
end

section
/-! What the mnemonics that read an operand, and those that store a register, answer once the operand
resolves; then the loads and the stores. -/

namespace Sys2Proof.Machine

/-! ### Reads and stores whose operand resolves -/

/-- A mnemonic of the kind `read` does its work on the operand byte and advances (R201, R204). -/
theorem exec_read {i : Instr} {mn : Mnemonic} {s : State} {op : DecodedOp} {m : Byte}
    {f : Byte → State → State} (hres : resolvesTo i mn s op) (hv : op.val = some m)
    (he : effectOf mn = .read f) : exec i s = .next (finished op (f m s)) := by
  have hb : mn ≠ .BRK := by
    rintro rfl
    cases he
  obtain ⟨t, ht, m', hv', rfl⟩ := exec_resolves hres hb he
  cases hv.symm.trans hv'
  exact ht

/-- A mnemonic of the kind `store` stores its byte at the effective address and advances (R204, R211). -/
theorem exec_store {i : Instr} {mn : Mnemonic} {s : State} {op : DecodedOp} {v : State → Byte}
    (hres : resolvesTo i mn s op) (he : effectOf mn = .store v) :
    ∃ ea u, op.addr = some ea ∧ memWrite1 ea (v s) s = .ok u ∧ exec i s = .next (finished op u) := by
  have hb : mn ≠ .BRK := by
    rintro rfl
    cases he
  obtain ⟨t, ht, ea, u, ha, hu, rfl⟩ := exec_resolves hres hb he
  exact ⟨ea, u, ha, hu, ht⟩

theorem endsPast_finished {op : DecodedOp} {s u : State} (hpc : u.pc = s.pc) :
    endsPast op s (finished op u) :=
  ⟨by rw [finished_pc, hpc], rfl⟩

/-- SetZN writes Z and N from the byte and no other flag (R208). -/
theorem zeroNegativeOf_of_setZN {m : Byte} {s t : State} (h : t.sr = setZN m s.sr) :
    zeroNegativeOf m t ∧ flagsKept [.zero, .negative] s t := by
  obtain ⟨hz, hn, hother⟩ := zeroNegativeFollowByte m s.sr
  rw [zeroNegativeOf, flagsKept, h]
  refine ⟨⟨hz, hn⟩, fun f hf => ?_⟩
  simp only [List.mem_cons, List.not_mem_nil, or_false, not_or] at hf
  exact hother f hf.1 hf.2

/-! ### Loads and stores -/

/-- How a load ends: flags by SetZN from the loaded byte, then the advance (R201, R208). -/
theorem finished_setZN {op : DecodedOp} {m : Byte} {s u : State} (hpc : u.pc = s.pc)
    (hsr : u.sr = setZN m s.sr) :
    zeroNegativeOf m (finished op u) ∧ flagsKept [.zero, .negative] s (finished op u) ∧
      endsPast op s (finished op u) := by
  obtain ⟨hzn, hkept⟩ := zeroNegativeOf_of_setZN (t := finished op u) hsr
  exact ⟨hzn, hkept, endsPast_finished hpc⟩

/-- Settles O29: the three loads are of the kind `read`, each with its register. -/
theorem loadsTakeOperandByte : Obligations.LoadsTakeOperandByte := fun _ _ _ _ hv =>
  ⟨fun hres => ⟨_, exec_read hres hv rfl, rfl, finished_setZN rfl rfl⟩,
    fun hres => ⟨_, exec_read hres hv rfl, rfl, finished_setZN rfl rfl⟩,
    fun hres => ⟨_, exec_read hres hv rfl, rfl, finished_setZN rfl rfl⟩⟩

/-- STA, STX and STY are of the kind `store`, each with the byte of its register (R233 to R235). -/
theorem effectOf_of_storedRegister {mn : Mnemonic} {s : State} {v : Byte}
    (h : (mn = .STA ∧ v = s.ac) ∨ (mn = .STX ∧ v = s.x) ∨ (mn = .STY ∧ v = s.y)) :
    ∃ r : State → Byte, effectOf mn = .store r ∧ v = r s := by
  rcases h with ⟨rfl, hv⟩ | ⟨rfl, hv⟩ | ⟨rfl, hv⟩
  · exact ⟨State.ac, rfl, hv⟩
  · exact ⟨State.x, rfl, hv⟩
  · exact ⟨State.y, rfl, hv⟩

/-- Settles O30: a store is one byte store on the bus, which changes memory alone, and the advance. -/
theorem storesPutRegisterByte : Obligations.StoresPutRegisterByte := by
  intro i mn s op v hreg hres
  obtain ⟨r, he, rfl⟩ := effectOf_of_storedRegister hreg
  obtain ⟨ea, u, haddr, hu, hexec⟩ := exec_store hres he
  obtain ⟨hregs, hsr, hpc⟩ := memWrite1_registers hu
  have hrom : romKept s u := memWrite1_romKept hu
  exact ⟨finished op u, ea, hexec, haddr, storedByte_congr (memWrite1_stored hu) rfl rfl, hregs, hsr,
    hrom, endsPast_finished hpc⟩

end Sys2Proof.Machine
end

section
/-! The flags that steer nothing: two states that differ in I, D and bits 5 and 4 of the status register alone
run alike, kind by kind. -/

namespace Sys2Proof.Machine

/-! ### Status bytes and states that differ in those flags alone -/

/-- The flags that no instruction but PHP and BRK reads (R26, R236, R310). -/
def inertFlags : List Flag := [.interruptDisable, .decimal, .brk, .unused]

/-- Two status bytes agree in the flags that steer something: N, V, Z and C. -/
def SameLiveFlags (a b : Byte) : Prop := ∀ f, f ∉ inertFlags → getFlag f b = getFlag f a

/-- `t` is `s` but for the flags that steer nothing. -/
def InertApart (s t : State) : Prop := ∃ sr, SameLiveFlags s.sr sr ∧ t = s.setSr sr

theorem inertApart_iff {s t : State} :
    InertApart s t ↔ t = { s with sr := t.sr } ∧ flagsKept inertFlags s t := by
  constructor
  · rintro ⟨sr, hl, rfl⟩
    exact ⟨rfl, hl⟩
  · rintro ⟨ht, hl⟩
    exact ⟨t.sr, hl, ht⟩

theorem InertApart.finished {s t : State} (h : InertApart s t) (op : DecodedOp) :
    InertApart (finished op s) (finished op t) := by
  obtain ⟨sr, hl, rfl⟩ := h
  exact ⟨sr, hl, rfl⟩

/-! ### Every flag computation keeps the agreement -/

section
variable {a b : Byte} (h : SameLiveFlags a b)
include h

theorem SameLiveFlags.carry : getFlag .carry b = getFlag .carry a := h .carry (by decide)

theorem SameLiveFlags.putFlag (g : Flag) (v : Bool) :
    SameLiveFlags (putFlag g v a) (putFlag g v b) := fun f hf => by
  rw [getFlag_putFlag, getFlag_putFlag, h f hf]

theorem SameLiveFlags.setZN (v : Byte) : SameLiveFlags (setZN v a) (setZN v b) :=
  (h.putFlag _ _).putFlag _ _

theorem SameLiveFlags.sumFlags (t : Sum) : SameLiveFlags (sumFlags t a) (sumFlags t b) :=
  ((h.putFlag _ _).putFlag _ _).setZN _

theorem SameLiveFlags.compareFlags (reg m : Byte) :
    SameLiveFlags (compareFlags reg m a) (compareFlags reg m b) :=
  ((h.putFlag _ _).putFlag _ _).putFlag _ _

theorem SameLiveFlags.bitFlags (ac m : Byte) : SameLiveFlags (bitFlags ac m a) (bitFlags ac m b) :=
  ((h.putFlag _ _).putFlag _ _).putFlag _ _

theorem SameLiveFlags.shiftFlags (out : Bool) (r : Byte) :
    SameLiveFlags (shiftFlags out r a).sr (shiftFlags out r b).sr :=
  (h.putFlag _ _).setZN _

theorem SameLiveFlags.pulledStatus (p : Byte) :
    SameLiveFlags (pulledStatus p a) (pulledStatus p b) := fun f hf => by
  rw [getFlag_pulledStatus, getFlag_pulledStatus, h f hf]

/-- A read-modify-write makes the same byte of both: the only flag it reads is C (R241, R244, R251 to R254). -/
theorem SameLiveFlags.modify {mn : Mnemonic} {f : Byte → Byte → Shifted} (he : effectOf mn = .modify f)
    (m : Byte) : (f m b).r = (f m a).r ∧ SameLiveFlags (f m a).sr (f m b).sr := by
  cases mn <;> simp only [effectOf, Effect.modify.injEq, reduceCtorEq] at he <;> subst he
  case INC | DEC => exact ⟨rfl, h.setZN _⟩
  case ASL | LSR => exact ⟨rfl, h.shiftFlags _ _⟩
  case ROL =>
    rw [rotateLeft, rotateLeft, h.carry]
    exact ⟨rfl, h.shiftFlags _ _⟩
  case ROR =>
    rw [rotateRight, rotateRight, h.carry]
    exact ⟨rfl, h.shiftFlags _ _⟩

end

/-! ### Each kind runs alike -/

section
variable {s : State} {sr : Byte} (hl : SameLiveFlags s.sr sr)
include hl

theorem takeSum_inertApart (t : Sum) : InertApart (takeSum t s) (takeSum t (s.setSr sr)) :=
  ⟨_, hl.sumFlags t, rfl⟩

/-- The mnemonics that read an operand read no flag but C, and that only for the sums (R236, R237). -/
theorem read_inertApart {mn : Mnemonic} {f : Byte → State → State} (he : effectOf mn = .read f) (m : Byte) :
    InertApart (f m s) (f m (s.setSr sr)) := by
  cases mn <;> simp only [effectOf, Effect.read.injEq, reduceCtorEq] at he <;> subst he
  case ADC =>
    rw [opAdc, opAdc, State.setSr_sr, hl.carry]
    exact takeSum_inertApart hl _
  case SBC =>
    rw [opSbc, opSbc, State.setSr_sr, hl.carry]
    exact takeSum_inertApart hl _
  case CMP | CPX | CPY => exact ⟨_, hl.compareFlags _ _, rfl⟩
  case BIT => exact ⟨_, hl.bitFlags _ _, rfl⟩
  all_goals exact ⟨_, hl.setZN _, rfl⟩

/-- The mnemonics without an operand that are neither stack nor control transfer read no flag. -/
theorem implied_inertApart {mn : Mnemonic} {f : State → State} (he : effectOf mn = .implied f) :
    InertApart (f s) (f (s.setSr sr)) := by
  cases mn <;> simp only [effectOf, Effect.implied.injEq, reduceCtorEq] at he <;> subst he
  case CLC | SEC | CLI | SEI | CLV | CLD | SED => exact ⟨_, hl.putFlag _ _, rfl⟩
  case TXS | NOP => exact ⟨_, hl, rfl⟩
  all_goals exact ⟨_, hl.setZN _, rfl⟩

/-- PLA reads no flag, and PLP keeps bits 5 and 4 alone, which steer nothing (R270, R271). -/
theorem pull_inertApart {mn : Mnemonic} {f : Byte → State → State} (he : effectOf mn = .pull f) (v : Byte) :
    InertApart (f v (pulled s)) (f v (pulled (s.setSr sr))) := by
  cases mn <;> simp only [effectOf, Effect.pull.injEq, reduceCtorEq] at he <;> subst he
  case PLA => exact ⟨_, hl.setZN _, rfl⟩
  case PLP => exact ⟨_, hl.pulledStatus _, rfl⟩

end

/-- A byte store that answers does not depend on the status register (R97). -/
theorem memWrite1_setSr {a : Word} {v : Byte} {s u : State} (h : memWrite1 a v s = .ok u) (sr : Byte) :
    memWrite1 a v (s.setSr sr) = .ok (u.setSr sr) := by
  rcases address_cases a s with hr | ⟨hp, hp'⟩ | hr | ⟨h1, h2, m, hm⟩ | ⟨h1, h2, hm⟩
  · cases (memWrite1_ram hr v s).symm.trans h
    exact memWrite1_ram hr v _
  · cases (memWrite1_ppu hp hp' v s).symm.trans h
    exact memWrite1_ppu hp hp' v _
  · cases (memWrite1_rom hr v s).symm.trans h
    exact memWrite1_rom hr v _
  · cases (memWrite1_prgRam h1 h2 hm v).symm.trans h
    exact memWrite1_prgRam (s := s.setSr sr) h1 h2 hm v
  · cases (memWrite1_unbacked h1 h2 hm v).symm.trans h

/-- The stores store a data register (R233 to R235). -/
theorem store_setSr {mn : Mnemonic} {v : State → Byte} (he : effectOf mn = .store v) (s : State) (sr : Byte) :
    v (s.setSr sr) = v s := by
  cases mn <;> simp only [effectOf, Effect.store.injEq, reduceCtorEq] at he <;> subst he <;> rfl

/-- Of the two pushes, PHA pushes a data register (R268, R269). -/
theorem push_setSr {mn : Mnemonic} {v : State → Byte} (he : effectOf mn = .push v) (hp : mn ≠ .PHP)
    (s : State) (sr : Byte) : v (s.setSr sr) = v s := by
  cases mn <;> simp only [effectOf, Effect.push.injEq, reduceCtorEq] at he <;> subst he
  case PHA => rfl
  case PHP => exact absurd rfl hp

/-- A branch tests N, V, Z or C (R206). -/
theorem branch_flag_notMem_inertFlags {mn : Mnemonic} {flag : Flag} {want : Bool}
    (he : effectOf mn = .branch flag want) : flag ∉ inertFlags := by
  cases mn <;> cases he <;> decide

/-- By kind: of one operand, two states apart in the flags that steer nothing are left so by every instruction
but PHP and BRK. -/
theorem answers_inertApart {mn : Mnemonic} {e : Effect} {op : DecodedOp} {s t t' : State} {sr : Byte}
    (he : effectOf mn = e) (hp : mn ≠ .PHP) (hb : mn ≠ .BRK) (hl : SameLiveFlags s.sr sr)
    (h : Answers op s t e) (h' : Answers op (s.setSr sr) t' e) : InertApart t t' := by
  cases e
  case read f =>
    obtain ⟨m, hv, rfl⟩ := h
    obtain ⟨m', hv', rfl⟩ := h'
    cases hv.symm.trans hv'
    exact (read_inertApart hl he m).finished op
  case store v =>
    obtain ⟨ea, u, ha, hu, rfl⟩ := h
    obtain ⟨ea', u', ha', hu', rfl⟩ := h'
    cases ha.symm.trans ha'
    rw [store_setSr he] at hu'
    cases (memWrite1_setSr hu sr).symm.trans hu'
    obtain ⟨-, hsr, -⟩ := memWrite1_registers hu
    exact InertApart.finished ⟨sr, hsr ▸ hl, rfl⟩ op
  case modify f =>
    obtain ⟨m, hv, h⟩ := h
    obtain ⟨m', hv', h'⟩ := h'
    cases hv.symm.trans hv'
    obtain ⟨hr, hf⟩ := hl.modify he m
    rw [State.setSr_sr, hr] at h'
    obtain ⟨hacc, -, rfl⟩ | ⟨ea, u, hacc, ha, hu, rfl⟩ := h <;>
      obtain ⟨hacc', -, rfl⟩ | ⟨ea', u', hacc', ha', hu', rfl⟩ := h'
    · exact ⟨_, hf, rfl⟩
    · exact absurd hacc hacc'
    · exact absurd hacc' hacc
    · cases ha.symm.trans ha'
      cases (memWrite1_setSr hu sr).symm.trans hu'
      exact ⟨_, hf, rfl⟩
  case implied f =>
    obtain rfl := h
    obtain rfl := h'
    exact (implied_inertApart hl he).finished op
  case push v =>
    obtain ⟨u, hu, rfl⟩ := h
    obtain ⟨u', hu', rfl⟩ := h'
    rw [push_setSr he hp] at hu'
    cases (push_eq _ _).symm.trans hu
    cases (push_eq _ _).symm.trans hu'
    exact ⟨sr, hl, rfl⟩
  case pull f =>
    obtain ⟨v, hv, rfl⟩ := h
    obtain ⟨v', hv', rfl⟩ := h'
    cases (pullByte_eq _).symm.trans hv
    cases (pullByte_eq _).symm.trans hv'
    exact (pull_inertApart hl he _).finished op
  case branch flag want =>
    obtain ⟨tgt, ha, -, rfl⟩ := h
    obtain ⟨tgt', ha', -, rfl⟩ := h'
    cases ha.symm.trans ha'
    rw [State.setSr_sr, hl flag (branch_flag_notMem_inertFlags he)]
    split <;> exact ⟨sr, hl, rfl⟩
  case jump =>
    obtain ⟨ea, ha, rfl⟩ := h
    obtain ⟨ea', ha', rfl⟩ := h'
    cases ha.symm.trans ha'
    exact ⟨sr, hl, rfl⟩
  case call =>
    obtain ⟨ea, u, ha, hu, rfl⟩ := h
    obtain ⟨ea', u', ha', hu', rfl⟩ := h'
    cases ha.symm.trans ha'
    cases (pushWord_eq _ _).symm.trans hu
    cases (pushWord_eq _ _).symm.trans hu'
    exact ⟨sr, hl, rfl⟩
  case ret =>
    obtain ⟨w, hw, rfl⟩ := h
    obtain ⟨w', hw', rfl⟩ := h'
    cases (pullWord_eq _).symm.trans hw
    cases (pullWord_eq _).symm.trans hw'
    exact ⟨sr, hl, rfl⟩
  case rti =>
    obtain ⟨u, hu, rfl⟩ := h
    obtain ⟨u', hu', rfl⟩ := h'
    cases (returnFromBreak_eq _).symm.trans hu
    cases (returnFromBreak_eq _).symm.trans hu'
    exact ⟨_, hl.pulledStatus _, rfl⟩
  case brk => exact absurd (eq_BRK_of_effect he) hb

/-! ### Every instruction runs alike -/

theorem eq_php_of_form {i : Instr} {o : Operand} (h : i.form = some (.PHP, o)) : i = .php := by
  cases i
  case php => rfl
  all_goals cases h

theorem eq_brk_of_form {i : Instr} {o : Operand} (h : i.form = some (.BRK, o)) : i = .brk := by
  cases i
  case brk => rfl
  all_goals cases h

/-- Two states apart in the flags that steer nothing both stop with one fault, or are both left so, by every
instruction but PHP and BRK (R236, R310). -/
theorem exec_inertApart {i : Instr} {s s' : State} (hp : i ≠ .php) (hb : i ≠ .brk) (h : InertApart s s') :
    (∃ f, exec i s = .fault f ∧ exec i s' = .fault f) ∨
      ∃ t t', exec i s = .next t ∧ exec i s' = .next t' ∧ InertApart t t' := by
  obtain ⟨sr, hl, rfl⟩ := h
  cases hf : i.form with
  | none =>
    obtain ⟨b, rfl⟩ := eq_illegal_of_form_eq_none hf
    exact .inl ⟨_, rfl, rfl⟩
  | some p =>
    obtain ⟨mn, o⟩ := p
    have hdesc : describe (s.setSr sr).pc mn o (s.setSr sr) = describe s.pc mn o s :=
      describe_congr rfl rfl rfl rfl rfl _ mn o
    cases hd : describe s.pc mn o s with
    | error f => exact .inl ⟨f, exec_error hf hd, exec_error hf (hdesc.trans hd)⟩
    | ok op =>
      have hp' : mn ≠ .PHP := by
        rintro rfl
        exact hp (eq_php_of_form hf)
      have hb' : mn ≠ .BRK := by
        rintro rfl
        exact hb (eq_brk_of_form hf)
      obtain ⟨t, ht, ha⟩ := exec_resolves ⟨o, hf, hd⟩ hb' rfl
      obtain ⟨t', ht', ha'⟩ := exec_resolves ⟨o, hf, hdesc.trans hd⟩ hb' rfl
      exact .inr ⟨t, t', ht, ht', answers_inertApart rfl hp' hb' hl ha ha'⟩

/-- Settles O27: by the kinds of effect, run in two states side by side. -/
theorem interruptAndDecimalFlagsInert : Obligations.InterruptAndDecimalFlagsInert := by
  intro i s s' hp hb hs hk
  rcases exec_inertApart hp hb (inertApart_iff.2 ⟨hs, hk⟩) with ⟨f, hf, hf'⟩ | ⟨t, t', ht, ht', h⟩
  · rw [hf, hf']
    exact ⟨fun _ h => h, nofun⟩
  · rw [ht, ht']
    refine ⟨nofun, ?_⟩
    rintro _ ⟨⟩
    exact ⟨t', rfl, inertApart_iff.1 h⟩

end Sys2Proof.Machine
end

section
/-! ADC and SBC, the compares, and the steps by one. -/

namespace Sys2Proof.Machine

/-! ### Sums and differences -/

theorem getFlag_carry_sumFlags (t : Sum) (sr : Byte) : getFlag .carry (sumFlags t sr) = t.c := by
  simp [sumFlags, getFlag_setZN_other, getFlag_putFlag]

theorem getFlag_overflow_sumFlags (t : Sum) (sr : Byte) : getFlag .overflow (sumFlags t sr) = t.v := by
  simp [sumFlags, getFlag_setZN_other]

/-- How a sum ends: Z and N from the result, then the advance (R201, R236, R237). -/
theorem finished_takeSum (op : DecodedOp) (t : Sum) (s : State) :
    zeroNegativeOf t.r (finished op (takeSum t s)) ∧
      flagsKept [.negative, .overflow, .zero, .carry] s (finished op (takeSum t s)) ∧
      endsPast op s (finished op (takeSum t s)) :=
  ⟨⟨getFlag_zero_setZN _ _, getFlag_negative_setZN _ _⟩,
    fun _ hf => getFlag_sumFlags_of_notMem hf t s.sr, endsPast_finished rfl⟩

/-- Settles O31: ADC takes the sum of accumulator, operand and carry, and V is the same in both forms. -/
theorem adcAddsWithCarry : Obligations.AdcAddsWithCarry := fun _ s op _ hres hv =>
  ⟨_, exec_read hres hv rfl, rfl, addWithCarry_r _ _ _,
    (getFlag_carry_sumFlags _ s.sr).trans (addWithCarry_c _ _ _), getFlag_overflow_sumFlags _ s.sr,
    (getFlag_overflow_sumFlags _ s.sr).trans (addWithCarry_v _ _ _), finished_takeSum op _ s⟩

/-- The sum of the one's complement is the difference with the borrow, modulo 256 (R237). -/
theorem subWithCarry_r (a m : Byte) (c : Bool) :
    ((subWithCarry a m c).r.toNat : Int) = ((a.toNat : Int) - m.toNat - (1 - c.toNat)) % 256 := by
  have := m.isLt
  rw [subWithCarry, addWithCarry_r, complement_toNat]
  omega

/-- It carries exactly where no borrow is needed (R237). -/
theorem subWithCarry_c (a m : Byte) (c : Bool) :
    (subWithCarry a m c).c = decide (0 ≤ (a.toNat : Int) - m.toNat - (1 - c.toNat)) := by
  have := m.isLt
  rw [subWithCarry, addWithCarry_c, complement_toNat, decide_eq_decide]
  omega

/-- It overflows exactly where the signed difference leaves the range of a byte (R237). -/
theorem subWithCarry_v (a m : Byte) (c : Bool) :
    (subWithCarry a m c).v = decide (a.toInt - m.toInt - (1 - c.toNat) < -128 ∨
      127 < a.toInt - m.toInt - (1 - c.toNat)) := by
  rw [subWithCarry, addWithCarry_v, complement_toInt, decide_eq_decide]
  omega

/-- Settles O32: SBC takes the sum with the one's complement, which is the difference with the borrow. -/
theorem sbcSubtractsWithBorrow : Obligations.SbcSubtractsWithBorrow := fun _ s op _ hres hv =>
  ⟨_, exec_read hres hv rfl, rfl, addWithCarry_r _ _ _, subWithCarry_r _ _ _,
    (getFlag_carry_sumFlags _ s.sr).trans (subWithCarry_c _ _ _), getFlag_overflow_sumFlags _ s.sr,
    (getFlag_overflow_sumFlags _ s.sr).trans (subWithCarry_v _ _ _), finished_takeSum op _ s⟩

/-! ### Compares -/

theorem getFlag_carry_compareFlags (r m sr : Byte) :
    getFlag .carry (compareFlags r m sr) = decide (m.toNat ≤ r.toNat) := by
  simp [compareFlags, getFlag_putFlag]

theorem getFlag_zero_compareFlags (r m sr : Byte) :
    getFlag .zero (compareFlags r m sr) = decide (r = m) := by
  simp [compareFlags, getFlag_putFlag]

/-- N after a compare is bit 7 of the difference as a number (R238). -/
theorem getFlag_negative_compareFlags (r m sr : Byte) :
    getFlag .negative (compareFlags r m sr) = decide (128 ≤ (r.toNat + 256 - m.toNat) % 256) := by
  have := m.isLt
  rw [compareFlags, getFlag_putFlag_same, getLsbD_seven, BitVec.toNat_sub, decide_eq_decide]
  omega

/-- CMP, CPX and CPY are of the kind `read`, each comparing its register (R238 to R240). -/
theorem effectOf_of_comparedRegister {mn : Mnemonic} {s : State} {r : Byte}
    (h : (mn = .CMP ∧ r = s.ac) ∨ (mn = .CPX ∧ r = s.x) ∨ (mn = .CPY ∧ r = s.y)) :
    ∃ f, effectOf mn = .read f ∧ ∀ m, f m s = s.setSr (compareFlags r m s.sr) := by
  rcases h with ⟨rfl, rfl⟩ | ⟨rfl, rfl⟩ | ⟨rfl, rfl⟩ <;> exact ⟨_, rfl, fun _ => rfl⟩

/-- Settles O33: a compare writes the status register alone. -/
theorem comparesSetFlags : Obligations.ComparesSetFlags := by
  intro i mn s op r m hreg hres hv
  obtain ⟨f, he, hf⟩ := effectOf_of_comparedRegister hreg
  have hexec := exec_read hres hv he
  rw [hf] at hexec
  exact ⟨_, hexec, rfl, getFlag_carry_compareFlags r m s.sr, getFlag_zero_compareFlags r m s.sr,
    getFlag_negative_compareFlags r m s.sr, fun _ hg => getFlag_compareFlags_of_notMem hg r m s.sr,
    endsPast_finished rfl⟩

/-! ### Steps by one -/

theorem eq_add_one {r m : Byte} (h : r.toNat = (m.toNat + 1) % 256) : r = m + 1 := by bv_omega

theorem eq_sub_one {r m : Byte} (h : r.toNat = (m.toNat + 255) % 256) : r = m - 1 := by bv_omega

/-- Settles O35: each of the four is evaluated at the register stepped by one. -/
theorem indexStepsByOne : Obligations.IndexStepsByOne := by
  refine fun s r => ⟨fun h => ?_, fun h => ?_, fun h => ?_, fun h => ?_⟩
  · rw [eq_add_one h]; rfl
  · rw [eq_add_one h]; rfl
  · rw [eq_sub_one h]; rfl
  · rw [eq_sub_one h]; rfl

/-- A mnemonic of the kind `modify` in a mode with an effective address stores its result there, sets its flags
and advances (R207, R211). -/
theorem exec_modify {i : Instr} {mn : Mnemonic} {s : State} {op : DecodedOp} {m : Byte}
    {f : Byte → Byte → Shifted} (hres : resolvesTo i mn s op) (hv : op.val = some m)
    (he : effectOf mn = .modify f) (hacc : op.mode ≠ .acc) :
    ∃ ea u, op.addr = some ea ∧ memWrite1 ea (f m s.sr).r s = .ok u ∧
      exec i s = .next (finished op (u.setSr (f m s.sr).sr)) := by
  have hb : mn ≠ .BRK := by
    rintro rfl
    cases he
  obtain ⟨t, ht, m', hv', h⟩ := exec_resolves hres hb he
  cases hv.symm.trans hv'
  obtain ⟨ea, u, -, ha, hu, rfl⟩ := h.resolve_left fun h => hacc h.1
  exact ⟨ea, u, ha, hu, ht⟩

/-- INC and DEC have no form on the accumulator (R241, R244). -/
theorem mode_ne_acc_of_inc_dec {i : Instr} {mn : Mnemonic} {o : Operand} (h : mn = .INC ∨ mn = .DEC)
    (hf : i.form = some (mn, o)) : o.mode ≠ .acc := by
  rcases h with rfl | rfl <;> cases i <;> cases hf <;> nofun

/-- INC and DEC are of the kind `modify`, with the byte stepped by one and SetZN of it (R241, R244). -/
theorem effectOf_of_inc_dec {mn : Mnemonic} {m r : Byte}
    (h : (mn = .INC ∧ r.toNat = (m.toNat + 1) % 256) ∨ (mn = .DEC ∧ r.toNat = (m.toNat + 255) % 256)) :
    ∃ f, effectOf mn = .modify f ∧ ∀ sr, f m sr = { r := r, sr := setZN r sr } := by
  rcases h with ⟨rfl, hr⟩ | ⟨rfl, hr⟩
  · exact ⟨increment, rfl, fun sr => by rw [eq_add_one hr]; rfl⟩
  · exact ⟨decrement, rfl, fun sr => by rw [eq_sub_one hr]; rfl⟩

/-- Settles O34: one byte store on the bus, SetZN of the byte whatever the store does, and the advance. -/
theorem memoryStepsByOne : Obligations.MemoryStepsByOne := by
  intro i mn s op m r hstep hres hv
  obtain ⟨f, he, hf⟩ := effectOf_of_inc_dec hstep
  have hacc : op.mode ≠ .acc := by
    obtain ⟨o, hform, hd⟩ := hres
    obtain ⟨-, hmode, -⟩ := describe_shape hd
    rw [hmode]
    exact mode_ne_acc_of_inc_dec (hstep.imp And.left And.left) hform
  obtain ⟨ea, u, haddr, hu, hexec⟩ := exec_modify hres hv he hacc
  rw [hf] at hu hexec
  obtain ⟨hregs, -, hpc⟩ := memWrite1_registers hu
  have hrom : romKept s u := memWrite1_romKept hu
  obtain ⟨hzn, hkept, hpast⟩ := finished_setZN (op := op) (u := u.setSr (setZN r s.sr)) hpc rfl
  exact ⟨_, ea, hexec, haddr, storedByte_congr (memWrite1_stored hu) rfl rfl, hregs, hzn, hkept, hrom,
    hpast⟩

end Sys2Proof.Machine
end

section
/-! The logical instructions: AND, ORA and EOR bit by bit, and the flags of BIT. -/

namespace Sys2Proof.Machine

/-! ### AND, ORA, EOR -/

/-- AND, ORA and EOR are of the kind `read`: each puts a byte made bit by bit from accumulator and operand in
the accumulator, and SetZN of it in the status register (R247 to R249). -/
theorem effectOf_of_bitwise {mn : Mnemonic} {f : Bool → Bool → Bool}
    (h : (mn = .AND ∧ f = and) ∨ (mn = .ORA ∧ f = or) ∨ (mn = .EOR ∧ f = xor)) (m : Byte) (s : State) :
    ∃ g r, effectOf mn = .read g ∧ g m s = (s.setAc r).setSr (setZN r s.sr) ∧
      ∀ k, r.getLsbD k = f (s.ac.getLsbD k) (m.getLsbD k) := by
  rcases h with ⟨rfl, rfl⟩ | ⟨rfl, rfl⟩ | ⟨rfl, rfl⟩
  · exact ⟨opAnd, s.ac &&& m, rfl, rfl, fun _ => BitVec.getLsbD_and⟩
  · exact ⟨opOra, s.ac ||| m, rfl, rfl, fun _ => BitVec.getLsbD_or⟩
  · exact ⟨opEor, s.ac ^^^ m, rfl, rfl, fun _ => BitVec.getLsbD_xor⟩

/-- Settles O36: the accumulator takes the byte made bit by bit, the flags its SetZN. -/
theorem logicalOpsCombineBits : Obligations.LogicalOpsCombineBits := by
  intro i mn f s op m hop hres hv
  obtain ⟨g, r, he, hg, hbits⟩ := effectOf_of_bitwise hop m s
  have hexec := exec_read hres hv he
  rw [hg] at hexec
  exact ⟨_, hexec, rfl, fun k _ => hbits k, finished_setZN rfl rfl⟩

/-! ### BIT -/

theorem getFlag_zero_bitFlags (a m sr : Byte) :
    getFlag .zero (bitFlags a m sr) = decide (a &&& m = 0) := by
  simp [bitFlags, getFlag_putFlag]

theorem getFlag_negative_bitFlags (a m sr : Byte) :
    getFlag .negative (bitFlags a m sr) = m.getLsbD 7 := by
  simp [bitFlags, getFlag_putFlag]

theorem getFlag_overflow_bitFlags (a m sr : Byte) :
    getFlag .overflow (bitFlags a m sr) = m.getLsbD 6 := by
  simp [bitFlags]

/-- Settles O37: BIT writes the status register alone, each flag as its own lemma says. -/
theorem bitTestsOperand : Obligations.BitTestsOperand := fun _ s _ m hres hv =>
  ⟨_, exec_read hres hv rfl, rfl, getFlag_zero_bitFlags s.ac m s.sr, getFlag_negative_bitFlags s.ac m s.sr,
    getFlag_overflow_bitFlags s.ac m s.sr, fun _ hf => getFlag_bitFlags_of_notMem hf s.ac m s.sr,
    endsPast_finished rfl⟩

end Sys2Proof.Machine
end

section
/-! ASL, LSR, ROL and ROR: the byte each makes, as a number, and where it goes. -/

namespace Sys2Proof.Machine

/-! ### The shifted and rotated bytes as numbers -/

theorem toNat_shiftLeft_byte (m : Byte) : (m <<< 1).toNat = 2 * m.toNat % 256 := by
  rw [BitVec.toNat_shiftLeft, Nat.shiftLeft_eq, pow_one, mul_comm]

theorem toNat_shiftRight_byte (m : Byte) : (m >>> 1).toNat = m.toNat / 2 := by
  rw [BitVec.toNat_ushiftRight, Nat.shiftRight_eq_div_pow, pow_one]

/-- Bit 0 of a byte shifted left is clear, so a carry entering there is added (R253). -/
theorem toNat_rotateLeft_byte (m : Byte) (c : Bool) :
    ((m <<< 1) ||| BitVec.ofNat 8 c.toNat).toNat = (2 * m.toNat + c.toNat) % 256 := by
  have hdisjoint : (m <<< 1) &&& BitVec.ofNat 8 c.toNat = 0 := by
    revert m c
    decide
  rw [← BitVec.add_eq_or_of_and_eq_zero _ _ hdisjoint, BitVec.toNat_add, BitVec.toNat_ofNat,
    toNat_shiftLeft_byte]
  omega

/-- Bit 7 of a byte shifted right is clear, so a carry entering there adds 128 (R254). -/
theorem toNat_rotateRight_byte (m : Byte) (c : Bool) :
    ((m >>> 1) ||| (BitVec.ofNat 8 c.toNat <<< 7)).toNat = m.toNat / 2 + 128 * c.toNat := by
  have hdisjoint : (m >>> 1) &&& (BitVec.ofNat 8 c.toNat <<< 7) = 0 := by
    revert m c
    decide
  have hcarry : (BitVec.ofNat 8 c.toNat <<< 7).toNat = 128 * c.toNat := by
    cases c <;> rfl
  have := m.isLt
  have := c.toNat_le
  rw [← BitVec.add_eq_or_of_and_eq_zero _ _ hdisjoint, BitVec.toNat_add, toNat_shiftRight_byte, hcarry]
  omega

/-! ### The result, its flags and where it goes -/

/-- The four are of the kind `modify`: each makes the byte that its number names, and the flags of a shift from
that byte and the bit shifted out (R251 to R254). -/
theorem effectOf_of_shift {mn : Mnemonic} {m r sr : Byte} {out : Bool}
    (h : (mn = .ASL ∧ r.toNat = 2 * m.toNat % 256 ∧ out = m.getLsbD 7) ∨
      (mn = .LSR ∧ r.toNat = m.toNat / 2 ∧ out = m.getLsbD 0) ∨
      (mn = .ROL ∧ r.toNat = (2 * m.toNat + (getFlag .carry sr).toNat) % 256 ∧ out = m.getLsbD 7) ∨
      (mn = .ROR ∧ r.toNat = m.toNat / 2 + 128 * (getFlag .carry sr).toNat ∧ out = m.getLsbD 0)) :
    ∃ f, effectOf mn = .modify f ∧ f m sr = shiftFlags out r sr := by
  rcases h with ⟨rfl, hr, rfl⟩ | ⟨rfl, hr, rfl⟩ | ⟨rfl, hr, rfl⟩ | ⟨rfl, hr, rfl⟩
  · rw [BitVec.eq_of_toNat_eq (hr.trans (toNat_shiftLeft_byte m).symm)]
    exact ⟨shiftLeft, rfl, rfl⟩
  · rw [BitVec.eq_of_toNat_eq (hr.trans (toNat_shiftRight_byte m).symm)]
    exact ⟨shiftRight, rfl, rfl⟩
  · rw [BitVec.eq_of_toNat_eq (hr.trans (toNat_rotateLeft_byte m _).symm)]
    exact ⟨rotateLeft, rfl, rfl⟩
  · rw [BitVec.eq_of_toNat_eq (hr.trans (toNat_rotateRight_byte m _).symm)]
    exact ⟨rotateRight, rfl, rfl⟩

theorem getFlag_carry_shiftFlags (out : Bool) (r sr : Byte) :
    getFlag .carry (shiftFlags out r sr).sr = out := by
  simp [shiftFlags, getFlag_setZN_other]

/-- How a shift ends: C is the bit shifted out, Z and N follow the result, then the advance (R201, R251). -/
theorem finished_shiftFlags {op : DecodedOp} {out : Bool} {r : Byte} {s u : State} (hpc : u.pc = s.pc)
    (hsr : u.sr = (shiftFlags out r s.sr).sr) :
    getFlag .carry (finished op u).sr = out ∧ zeroNegativeOf r (finished op u) ∧
      flagsKept [.negative, .zero, .carry] s (finished op u) ∧ endsPast op s (finished op u) := by
  rw [zeroNegativeOf, flagsKept, finished_sr, hsr]
  exact ⟨getFlag_carry_shiftFlags out r s.sr, ⟨getFlag_zero_setZN _ _, getFlag_negative_setZN _ _⟩,
    fun _ hf => getFlag_shiftFlags_of_notMem hf out r s.sr, endsPast_finished hpc⟩

/-- A mnemonic of the kind `modify` in mode `acc` puts its result in the accumulator, sets its flags and
advances (R207). -/
theorem exec_modifyAcc {i : Instr} {mn : Mnemonic} {s : State} {op : DecodedOp} {m : Byte}
    {f : Byte → Byte → Shifted} (hres : resolvesTo i mn s op) (hv : op.val = some m)
    (he : effectOf mn = .modify f) (hacc : op.mode = .acc) :
    op.addr = none ∧ exec i s = .next (finished op ((s.setAc (f m s.sr).r).setSr (f m s.sr).sr)) := by
  have hb : mn ≠ .BRK := by
    rintro rfl
    cases he
  obtain ⟨t, ht, m', hv', h⟩ := exec_resolves hres hb he
  cases hv.symm.trans hv'
  obtain ⟨-, haddr, rfl⟩ := h.resolve_right fun ⟨_, _, hne, _⟩ => hne hacc
  exact ⟨haddr, ht⟩

/-- Settles O38: the result goes to the accumulator in mode `acc`, elsewhere by one byte store on the bus; the
flags are those of the shift whatever the store does. -/
theorem shiftsAndRotatesMoveBits : Obligations.ShiftsAndRotatesMoveBits := by
  intro i mn s op m r out hshift hres hv
  obtain ⟨f, he, hf⟩ := effectOf_of_shift hshift
  by_cases hacc : op.mode = .acc
  · obtain ⟨haddr, hexec⟩ := exec_modifyAcc hres hv he hacc
    rw [hf] at hexec
    obtain ⟨hc, hzn, hkept, hpast⟩ := finished_shiftFlags (op := op) (s := s)
      (u := (s.setAc r).setSr (shiftFlags out r s.sr).sr) rfl rfl
    refine ⟨_, hexec, hc, hzn, hkept, hpast, fun _ => rfl, fun ea hea => ?_⟩
    cases haddr.symm.trans hea
  · obtain ⟨ea, u, haddr, hu, hexec⟩ := exec_modify hres hv he hacc
    rw [hf] at hu hexec
    obtain ⟨hregs, -, hpc⟩ := memWrite1_registers hu
    have hrom : romKept s u := memWrite1_romKept hu
    obtain ⟨hc, hzn, hkept, hpast⟩ := finished_shiftFlags (op := op)
      (u := u.setSr (shiftFlags out r s.sr).sr) hpc rfl
    refine ⟨_, hexec, hc, hzn, hkept, hpast, fun hnone => ?_, fun ea' hea => ?_⟩
    · cases haddr.symm.trans hnone
    · cases haddr.symm.trans hea
      exact ⟨storedByte_congr (memWrite1_stored hu) rfl rfl, hregs, hrom⟩

end Sys2Proof.Machine
end

section
/-! The jumps, the call, the break and the returns: where each goes, what it leaves on the stack, and that a
return undoes the call, the push or the break before it. -/

namespace Sys2Proof.Machine

/-! ### JMP -/

/-- A JMP that resolves takes 5 cycles through a pointer and 3 otherwise: neither mode has a base (R205, R263). -/
theorem count_of_jmp {i : Instr} {s : State} {op : DecodedOp} (h : resolvesTo i .JMP s op) :
    op.count = if op.mode = .ind then 5 else 3 := by
  obtain ⟨o, hf, hd⟩ := h
  cases i <;> cases hf
  case jmpAbs w =>
    obtain ⟨r, hr, rfl⟩ := withRef_ok.1 hd
    obtain ⟨-, -, hbase⟩ := refAt_ok.1 hr
    rw [DecodedOp.count, hbase]
    rfl
  case jmpInd w =>
    obtain ⟨r, hr, rfl⟩ := withRef_ok.1 hd
    obtain ⟨-, hbase⟩ := resolveInd_read hr
    rw [DecodedOp.count, hbase]
    rfl

/-- Settles O40: a jump is of the kind that writes `pc` and the count alone. -/
theorem jumpGoesToAddress : Obligations.JumpGoesToAddress := by
  intro i s op hres
  obtain ⟨t, ht, ea, haddr, rfl⟩ := exec_resolves hres nofun rfl
  exact ⟨ea, haddr, count_of_jmp hres ▸ ht⟩

/-! ### JSR -/

/-- A 16-bit push leaves the registers but the stack pointer, the flags and the cartridge (R209). -/
theorem pushWord_registers {w : Word} {s t : State} (h : pushWord w s = .ok t) :
    t.sp = s.sp - 2 ∧ t.ac = s.ac ∧ t.x = s.x ∧ t.y = s.y ∧ t.sr = s.sr ∧ t.cart = s.cart := by
  rw [pushWord_keeps h]
  exact ⟨rfl, rfl, rfl, rfl, rfl, rfl⟩

/-- Settles O41: a call is one 16-bit push, then `pc` and the count. -/
theorem jsrPushesReturnAddress : Obligations.JsrPushesReturnAddress := by
  intro w s op hres
  obtain ⟨t, ht, ea, u, haddr, hu, rfl⟩ := exec_resolves hres nofun rfl
  obtain ⟨hsp, hac, hx, hy, hsr, hcart⟩ := pushWord_registers hu
  exact ⟨_, ea, ht, haddr, rfl, hsp, hac, hx, hy, hsr, hcart, rfl, memRead1_pushWord (t := u) hu,
    fun _ => pushWord_frame (t := u) hu⟩

/-! ### RTS, RTI and PLP -/

/-- A 16-bit pull yields the two bytes above the stack pointer, low byte first (R210). -/
theorem pullWord_of_reads {s : State} {lo hi : Byte} (hlo : memRead1 (stackAddr (s.sp + 1)) s = .ok lo)
    (hhi : memRead1 (stackAddr (s.sp + 2)) s = .ok hi) : pullWord s = .ok (wordOf hi lo) := by
  have hlo' : pullByte s = .ok lo := hlo
  have hhi' : pullByte (pulled s) = .ok hi := by
    rw [show s.sp + 2 = s.sp + 1 + 1 by bv_omega] at hhi
    exact hhi
  simp only [pullWord, hlo', hhi']

/-- The break's return takes the status byte above the stack pointer and the word above that (R266). -/
theorem returnFromBreak_of_reads {s : State} {p lo hi : Byte}
    (hp : memRead1 (stackAddr (s.sp + 1)) s = .ok p) (hlo : memRead1 (stackAddr (s.sp + 2)) s = .ok lo)
    (hhi : memRead1 (stackAddr (s.sp + 3)) s = .ok hi) :
    returnFromBreak s =
      .ok { s with sr := pulledStatus p s.sr, pc := wordOf hi lo, sp := s.sp + 3 } := by
  have hp' : pullByte s = .ok p := hp
  have hword : pullWord (pulled s) = .ok (wordOf hi lo) := by
    rw [show s.sp + 2 = s.sp + 1 + 1 by bv_omega] at hlo
    rw [show s.sp + 3 = s.sp + 1 + 2 by bv_omega] at hhi
    exact pullWord_of_reads (s := pulled s) hlo hhi
  have hsp : s.sp + 3 = s.sp + 1 + 1 + 1 := by bv_omega
  simp only [returnFromBreak, hp', hword, hsp]
  rfl

/-- RTS goes one past the word above the stack pointer (R265). -/
theorem exec_rts {s : State} {lo hi : Byte} (hlo : memRead1 (stackAddr (s.sp + 1)) s = .ok lo)
    (hhi : memRead1 (stackAddr (s.sp + 2)) s = .ok hi) :
    exec .rts s = .next { s with pc := wordOf hi lo + 1, sp := s.sp + 2, cycles := 6 } := by
  have hsp : s.sp + 2 = s.sp + 1 + 1 := by bv_omega
  have hrts : exec .rts s = execRts s := rfl
  rw [hrts, execRts, pullWord_of_reads hlo hhi, hsp]
  rfl

/-- RTI goes to the word above the status byte, with nothing added (R266). -/
theorem exec_rti {s : State} {p lo hi : Byte} (hp : memRead1 (stackAddr (s.sp + 1)) s = .ok p)
    (hlo : memRead1 (stackAddr (s.sp + 2)) s = .ok lo) (hhi : memRead1 (stackAddr (s.sp + 3)) s = .ok hi) :
    exec .rti s =
      .next { s with sr := pulledStatus p s.sr, pc := wordOf hi lo, sp := s.sp + 3, cycles := 6 } := by
  have hrti : exec .rti s = execRti s := rfl
  rw [hrti, execRti, returnFromBreak_of_reads hp hlo hhi]
  rfl

/-- PLP takes the status byte above the stack pointer (R271). -/
theorem exec_plp {s : State} {p : Byte} (hp : memRead1 (stackAddr (s.sp + 1)) s = .ok p) :
    exec .plp s =
      .next { s with sr := pulledStatus p s.sr, sp := s.sp + 1, pc := s.pc + 1, cycles := 4 } := by
  have hplp : exec .plp s = runPull .PLP opPlp s := rfl
  rw [hplp, runPull, pullByte, hp]
  rfl

/-- Settles O42: the stack can always be read, and the returns take what stands there. -/
theorem returnsPullFromStack : Obligations.ReturnsPullFromStack :=
  ⟨fun s => ⟨_, _, memRead1_stack _ s, memRead1_stack _ s,
      exec_rts (memRead1_stack _ s) (memRead1_stack _ s)⟩,
    fun s => ⟨_, _, _, memRead1_stack _ s, memRead1_stack _ s, memRead1_stack _ s,
      exec_rti (memRead1_stack _ s) (memRead1_stack _ s) (memRead1_stack _ s)⟩⟩

/-! ### BRK -/

/-- With a PRG-ROM the break vector can be read (R81, R267). -/
theorem memRead2_breakVector {s : State} (h : s.cart.prgUnits ≠ 0) : ∃ v, memRead2 0xFFFE s = .ok v := by
  have hlen : s.cart.prgLen ≠ 0 :=
    mul_ne_zero (fun h0 => h (BitVec.eq_of_toNat_eq h0)) (by decide)
  obtain ⟨-, hread, -⟩ := romWindowMirrorsAndDropsStores 0xFFFE s (by decide)
  exact memRead2_answers_off_pageEnd (by decide) (hread hlen)

/-- Without a PRG-ROM it cannot (R81). -/
theorem memRead2_breakVector_fails {s : State} (h : s.cart.prgUnits = 0) :
    memRead2 0xFFFE s = .error (.addressOutOfRange 0xFFFE .two) := by
  have hlen : s.cart.prgLen = 0 := by rw [Cartridge.prgLen, h]; rfl
  obtain ⟨hfail, -⟩ := romWindowMirrorsAndDropsStores 0xFFFE s (by decide)
  exact (hfail hlen).2

/-- The break sequence ends at the vector it read (R267). -/
theorem enterBreak_of_vector {s : State} {v : Word} (h : memRead2 Config.breakVector s = .ok v) :
    ∃ t, enterBreak s = .ok t ∧ t.pc = v :=
  ⟨_, enterBreak_eq h, rfl⟩

/-- It leaves the registers but the stack pointer, and the cartridge (R267). -/
theorem enterBreak_registers {s t : State} (h : enterBreak s = .ok t) :
    t.sp = s.sp - 3 ∧ t.ac = s.ac ∧ t.x = s.x ∧ t.y = s.y ∧ t.cart = s.cart := by
  rw [enterBreak_keeps h]
  exact ⟨rfl, rfl, rfl, rfl, rfl⟩

/-- The three bytes that the break sequence pushes read back (R267). -/
theorem memRead1_enterBreak {s t : State} (h : enterBreak s = .ok t) (hw : s.wf = true) :
    memRead1 (stackAddr s.sp) t = .ok (highByte (s.pc + 2)) ∧
      memRead1 (stackAddr (s.sp - 1)) t = .ok (lowByte (s.pc + 2)) ∧
      memRead1 (stackAddr (s.sp - 2)) t = .ok (pushedStatus s.sr) := by
  obtain ⟨v, u, w, hu, hpush, rfl⟩ := enterBreak_ok h
  obtain ⟨hsp, -⟩ := pushWord_registers hu
  obtain ⟨hhi, hlo⟩ := memRead1_pushWord hu hw
  have hkept {q : Byte} (hq : q ≠ u.sp) :
      memRead1 (stackAddr q) ((w.setSr (putFlag .interruptDisable true w.sr)).setPc v) =
        memRead1 (stackAddr q) u :=
    push_frame (t := w) hpush fun hc => hq (stackAddr_sameCell hc).symm
  refine ⟨(hkept ?_).trans hhi, (hkept ?_).trans hlo, ?_⟩
  · rw [hsp]; bv_omega
  · rw [hsp]; bv_omega
  · rw [← hsp]
    exact memRead1_push (t := w) hpush (pushWord_wf hu hw)

theorem exec_brk_of_enterBreak {s t : State} (h : enterBreak s = .ok t) :
    exec .brk s = .next { t with cycles := 7 } := by
  have hbrk : exec .brk s = execBrk s := rfl
  rw [hbrk, execBrk_eq, h]
  rfl

theorem exec_brk_of_vector_error {s : State} {f : Fault} (h : memRead2 Config.breakVector s = .error f) :
    exec .brk s = .fault f := by
  have hbrk : exec .brk s = execBrk s := rfl
  rw [hbrk, execBrk_eq, enterBreak, h]

/-- BRK decodes under both values of its parameter (R267). -/
theorem decodeUnder_brk {a : Word} {s : State} (h : s.holdsAt a (encode .brk)) (p : OpenParams) :
    decodeUnder p a s = .next (opShape .BRK .impl) := by
  rw [decodeUnder_of_fetch (fetchAt_of_encode rfl h)]
  rfl

/-- Settles O43: the break sequence where the vector can be read, the read's error where it cannot; the
parameter chooses between the sequence and the refusal. -/
theorem brkEntersThroughVector : Obligations.BrkEntersThroughVector := by
  refine ⟨fun s hrom => ?_, fun s hrom => exec_brk_of_vector_error (memRead2_breakVector_fails hrom),
    fun p s hp => ?_, fun p s hp => ⟨?_, fun a hh => ⟨_, decodeUnder_brk hh p, rfl, rfl, rfl, rfl⟩⟩⟩
  · obtain ⟨v, hv⟩ := memRead2_breakVector hrom
    obtain ⟨u, hu, hpc⟩ := enterBreak_of_vector hv
    obtain ⟨hsp, hac, hx, hy, hcart⟩ := enterBreak_registers hu
    have hsr := enterBreak_sr hu
    refine ⟨_, v, hv, exec_brk_of_enterBreak hu, hpc, hsp, hac, hx, hy, hcart, rfl, ?_, fun f hf => ?_,
      memRead1_enterBreak (t := u) hu, fun _ => enterBreak_frame (t := u) hu⟩
    · rw [hsr, getFlag_putFlag_same]
    · rw [hsr, getFlag_putFlag_of_notMem hf]
  · rw [execUnder_brk, hp]
    rfl
  · rw [execUnder_brk, hp]
    rfl

/-! ### Returns undo calls -/

/-- A push leaves the registers but the stack pointer (R209). -/
theorem push_registers {v : Byte} {s t : State} (h : push v s = .ok t) :
    t.sp = s.sp - 1 ∧ t.ac = s.ac ∧ t.x = s.x ∧ t.y = s.y := by
  obtain ⟨-, hkeeps⟩ := push_stored h
  rw [hkeeps]
  exact ⟨rfl, rfl, rfl, rfl⟩

/-- A pushed status byte pulled into a register that kept bits 5 and 4 is the register pushed (R26). -/
theorem pulledStatus_pushedStatus {sr sr' : Byte}
    (h : ∀ f, f = .unused ∨ f = .brk → getFlag f sr' = getFlag f sr) :
    pulledStatus (pushedStatus sr) sr' = sr := by
  refine sr_ext fun f => ?_
  rw [getFlag_pulledStatus, getFlag_pushedStatus]
  by_cases hf : f = .unused ∨ f = .brk
  · rw [if_pos hf, h f hf]
  · rw [if_neg hf, decide_eq_false hf, Bool.or_false]

/-- RTS undoes JSR (R264, R265). -/
theorem rts_undoes_jsr {w : Word} {s t : State} (hw : s.wf = true) (h : exec (.jsr w) s = .next t) :
    ∃ u, exec .rts t = .next u ∧ u.pc = s.pc + 3 ∧ registersKept s u ∧ u.sr = s.sr := by
  obtain ⟨op, -, ea, u, -, hu, rfl⟩ := exec_next rfl h
  obtain ⟨hhi, hlo⟩ := memRead1_pushWord hu hw
  obtain ⟨hsp, hac, hx, hy, hsr, -⟩ := pushWord_registers hu
  rw [show s.sp - 1 = u.sp + 1 by rw [hsp]; bv_omega] at hlo
  rw [show s.sp = u.sp + 2 by rw [hsp]; bv_omega] at hhi
  refine ⟨_, exec_rts (s := { u with pc := ea, cycles := 6 }) hlo hhi, ?_, ⟨hac, hx, hy, ?_⟩, hsr⟩
  · rw [wordOf_high_low]
    bv_omega
  · rw [hsp]; bv_omega

/-- PLP undoes PHP (R269, R271). -/
theorem plp_undoes_php {s t : State} (hw : s.wf = true) (h : exec .php s = .next t) :
    ∃ u, exec .plp t = .next u ∧ registersKept s u ∧ u.sr = s.sr := by
  obtain ⟨op, -, u, hu, rfl⟩ := exec_next rfl h
  have hp := memRead1_push hu hw
  obtain ⟨hsp, hac, hx, hy⟩ := push_registers hu
  rw [show s.sp = u.sp + 1 by rw [hsp]; bv_omega] at hp
  refine ⟨_, exec_plp (s := finished op u) hp, ⟨hac, hx, hy, ?_⟩, pulledStatus_pushedStatus fun f _ => ?_⟩
  · rw [finished_sp, hsp]; bv_omega
  · rw [finished_sr, push_sr hu]

/-- RTI undoes BRK (R266, R267). -/
theorem rti_undoes_brk {s t : State} (hw : s.wf = true) (h : exec .brk s = .next t) :
    ∃ u, exec .rti t = .next u ∧ u.pc = s.pc + 2 ∧ registersKept s u ∧ u.sr = s.sr := by
  obtain ⟨op, -, u, hu, rfl⟩ := exec_next rfl h
  obtain ⟨hhi, hlo, hp⟩ := memRead1_enterBreak hu hw
  obtain ⟨hsp, hac, hx, hy, -⟩ := enterBreak_registers hu
  rw [show s.sp - 2 = u.sp + 1 by rw [hsp]; bv_omega] at hp
  rw [show s.sp - 1 = u.sp + 2 by rw [hsp]; bv_omega] at hlo
  rw [show s.sp = u.sp + 3 by rw [hsp]; bv_omega] at hhi
  refine ⟨_, exec_rti (s := { u with cycles := 7 }) hp hlo hhi, wordOf_high_low _, ⟨hac, hx, hy, ?_⟩,
    pulledStatus_pushedStatus fun f hf => ?_⟩
  · rw [hsp]; bv_omega
  · rw [enterBreak_sr hu]
    exact getFlag_putFlag_ne (by rintro rfl; simp at hf) _ _

/-- Settles O48: each return reads back what its call pushed. -/
theorem returnsUndoCalls : Obligations.ReturnsUndoCalls :=
  ⟨fun _ _ _ => rts_undoes_jsr, fun _ _ => plp_undoes_php, fun _ _ => rti_undoes_brk⟩

end Sys2Proof.Machine
end

section
/-! PHA and PHP are one push, PLA and PLP one pull: where the byte goes and what stays. -/

namespace Sys2Proof.Machine

/-! ### PHA and PHP -/

/-- A mnemonic of the kind `push` stores its byte at the stack pointer, which steps down, and advances; the
other registers, the flags and the cartridge stay (R201, R209). -/
theorem exec_push {i : Instr} {mn : Mnemonic} {s : State} {op : DecodedOp} {v : State → Byte}
    (hres : resolvesTo i mn s op) (he : effectOf mn = .push v) :
    ∃ t, exec i s = .next t ∧ storedByte (stackAddr s.sp) (v s) s t ∧ t.sp = s.sp - 1 ∧
      t.ac = s.ac ∧ t.x = s.x ∧ t.y = s.y ∧ t.sr = s.sr ∧ t.cart = s.cart ∧ endsPast op s t := by
  have hb : mn ≠ .BRK := by
    rintro rfl
    cases he
  obtain ⟨t, ht, u, hu, rfl⟩ := exec_resolves hres hb he
  obtain ⟨hstored, hkeeps⟩ := push_stored hu
  refine ⟨_, ht, storedByte_congr hstored rfl rfl, ?_⟩
  rw [hkeeps]
  exact ⟨rfl, rfl, rfl, rfl, rfl, rfl, endsPast_finished rfl⟩

/-- Settles O44: both are of the kind `push`, PHA with the accumulator and PHP with the status register's
pushed form. -/
theorem pushesStoreOnStack : Obligations.PushesStoreOnStack := by
  rintro i v s (⟨rfl, rfl⟩ | ⟨rfl, rfl⟩)
  · exact exec_push (mn := .PHA) ⟨.impl, rfl, rfl⟩ rfl
  · exact exec_push (mn := .PHP) ⟨.impl, rfl, rfl⟩ rfl

/-! ### PLA and PLP -/

/-- PLA takes the byte above the stack pointer, and N and Z follow it (R270). -/
theorem exec_pla {s : State} {m : Byte} (hm : memRead1 (stackAddr (s.sp + 1)) s = .ok m) :
    exec .pla s =
      .next { s with ac := m, sr := setZN m s.sr, sp := s.sp + 1, pc := s.pc + 1, cycles := 4 } := by
  obtain ⟨t, ht, m', hm', rfl⟩ := exec_resolves (i := .pla) (s := s) ⟨.impl, rfl, rfl⟩ nofun rfl
  cases hm.symm.trans hm'
  exact ht

/-- Settles O45: the byte above the stack pointer can always be read, and both pulls take it. -/
theorem pullsReadFromStack : Obligations.PullsReadFromStack := fun s =>
  have hread := memRead1_stack (s.sp + 1) s
  ⟨_, hread, exec_pla hread, exec_plp hread⟩

end Sys2Proof.Machine
end

section
/-! The flag instructions are one write to the status register: each writes its flag and advances. -/

namespace Sys2Proof.Machine

/-- Every mnemonic of the kind `implied` takes two cycles. -/
theorem baseCycles_of_implied {mn : Mnemonic} {f : State → State} (h : effectOf mn = .implied f) :
    baseCycles mn .impl = 2 := by
  cases mn <;> simp only [effectOf, reduceCtorEq] at h <;> rfl

/-- A mnemonic of the kind `implied` makes its change, takes one byte and two cycles (R201, R205). -/
theorem exec_implied {i : Instr} {mn : Mnemonic} {f : State → State} (hf : i.form = some (mn, .impl))
    (he : effectOf mn = .implied f) (s : State) :
    exec i s = .next { f s with pc := (f s).pc + 1, cycles := 2 } := by
  have hruns := runs_of_form hf
  rw [he] at hruns
  rw [hruns s, runImplied, advance, baseCycles_of_implied he]
  rfl

/-- Settles O46: each of the seven is of the kind `implied` and writes its flag alone. -/
theorem flagInstructionsWriteOneBit : Obligations.FlagInstructionsWriteOneBit := by
  intro i f v s hmem
  have hflag : ∃ mn, i.form = some (mn, .impl) ∧ effectOf mn = .implied (opFlag f v) := by
    simp only [List.mem_cons, List.not_mem_nil, or_false, Prod.mk.injEq] at hmem
    rcases hmem with ⟨rfl, rfl, rfl⟩ | ⟨rfl, rfl, rfl⟩ | ⟨rfl, rfl, rfl⟩ | ⟨rfl, rfl, rfl⟩ |
      ⟨rfl, rfl, rfl⟩ | ⟨rfl, rfl, rfl⟩ | ⟨rfl, rfl, rfl⟩ <;> exact ⟨_, rfl, rfl⟩
  obtain ⟨mn, hform, heffect⟩ := hflag
  exact ⟨_, exec_implied hform heffect s, rfl, getFlag_putFlag_same f v s.sr,
    fun _ hg => getFlag_putFlag_of_notMem hg v s.sr⟩

end Sys2Proof.Machine
end

section
/-! The transfers and NOP are one change to the registers each: it is made, and the instruction advances. -/

namespace Sys2Proof.Machine

/-- Settles O47: each of the seven is of the kind `implied`, with its own change to the state. -/
theorem transfersMoveByte : Obligations.TransfersMoveByte := fun s =>
  ⟨exec_implied (i := .tax) (mn := .TAX) (f := opTax) rfl rfl s,
    exec_implied (i := .tay) (mn := .TAY) (f := opTay) rfl rfl s,
    exec_implied (i := .txa) (mn := .TXA) (f := opTxa) rfl rfl s,
    exec_implied (i := .tya) (mn := .TYA) (f := opTya) rfl rfl s,
    exec_implied (i := .tsx) (mn := .TSX) (f := opTsx) rfl rfl s,
    exec_implied (i := .txs) (mn := .TXS) (f := opTxs) rfl rfl s,
    exec_implied (i := .nop) (mn := .NOP) (f := id) rfl rfl s⟩

end Sys2Proof.Machine
end

section
/-! Reset and boot: what Reset writes, when its vector can be read, and the canonical form of the state a
boot makes. -/

namespace Sys2Proof.Machine

/-! ### What Reset answers -/

/-- With the vector read, Reset writes pc, sp and sr (R340). -/
theorem resetMachine_of_vector {s : State} {v : Word} (h : memRead2 Config.resetVector s = .ok v) :
    resetMachine s = .ok { s with pc := v, sp := Config.resetSp, sr := Config.resetSr } := by
  rw [resetMachine, h]
  rfl

/-- The error of the vector's read is the error of Reset (R341). -/
theorem resetMachine_of_vector_error {s : State} {f : Fault} (h : memRead2 Config.resetVector s = .error f) :
    resetMachine s = .error f := by
  rw [resetMachine, h]

/-- Settles O59: Reset with its constants as numbers. -/
theorem resetLoadsVector : Obligations.ResetLoadsVector := fun _ _ => resetMachine_of_vector

/-! ### When the vector can be read -/

/-- PRG-ROM is empty exactly where the header declares no unit (R64). -/
theorem Cartridge.prgLen_eq_zero_iff (c : Cartridge) : c.prgLen = 0 ↔ c.prgUnits = 0 := by
  have hunit : Config.prgUnit ≠ 0 := by decide
  exact (mul_eq_zero_iff_right hunit).trans (BitVec.toNat_inj (y := 0))

/-- With a PRG-ROM the reset vector can be read: it is not at the end of a page (R81, R96). -/
theorem memRead2_resetVector {s : State} (h : s.cart.prgUnits ≠ 0) :
    ∃ v, memRead2 Config.resetVector s = .ok v := by
  obtain ⟨-, hread, -⟩ := romWindowMirrorsAndDropsStores Config.resetVector s (by decide)
  exact memRead2_answers_off_pageEnd (by decide) (hread (mt s.cart.prgLen_eq_zero_iff.1 h))

/-- Without a PRG-ROM it cannot (R81). -/
theorem memRead2_resetVector_fails {s : State} (h : s.cart.prgUnits = 0) :
    memRead2 Config.resetVector s = .error (.addressOutOfRange 0xFFFC .two) := by
  obtain ⟨hfail, -⟩ := romWindowMirrorsAndDropsStores Config.resetVector s (by decide)
  exact (hfail (s.cart.prgLen_eq_zero_iff.2 h)).2

theorem resetMachine_answers {s : State} (h : s.cart.prgUnits ≠ 0) : ∃ t, resetMachine s = .ok t := by
  obtain ⟨v, hv⟩ := memRead2_resetVector h
  exact ⟨_, resetMachine_of_vector hv⟩

/-- The blank cartridge holds the word 0 at the reset vector (log 5). -/
theorem memRead2_resetVector_blank : memRead2 Config.resetVector (State.powerUp Cartridge.blank) = .ok 0 := by
  rw [memRead2_rom (by decide), if_neg (by decide), if_pos (by decide)]
  rfl

/-- Settles O60: Reset fails where its vector cannot be read, which is where there is no PRG-ROM. -/
theorem resetFailsWithoutRom : Obligations.ResetFailsWithoutRom := by
  refine ⟨fun s => ⟨fun h => resetMachine_of_vector_error (memRead2_resetVector_fails h), fun h => ?_⟩,
    fun s => resetMachine_answers, resetMachine_of_vector memRead2_resetVector_blank⟩
  by_contra hrom
  obtain ⟨t, ht⟩ := resetMachine_answers hrom
  cases h.symm.trans ht

/-! ### The state after reset and after a boot -/

/-- Reset keeps the memories (R340). -/
theorem resetMachine_wf {s t : State} (h : resetMachine s = .ok t) : t.wf = s.wf := by
  cases hv : memRead2 Config.resetVector s with
  | error f => cases (resetMachine_of_vector_error hv).symm.trans h
  | ok v =>
    cases (resetMachine_of_vector hv).symm.trans h
    exact State.wf_congr rfl rfl

/-- A machine just created has nothing in RAM, so its form is the cartridge's (log 4). -/
theorem State.wf_powerUp (c : Cartridge) : (State.powerUp c).wf = c.wf := rfl

/-- A slice of an image placed as a block fits the block, however short the image is (R72, R73). -/
theorem Memory.wf_slice (f : List Byte) (start len : Nat) :
    Memory.wf len (Memory.ofBytes 0 ((f.drop start).take len)) = true :=
  Memory.wfFrom_ofBytes 0 len _ (by rw [Nat.zero_add]; exact List.length_take_le _ _)

/-- The cartridge of an image of mapper 0 is in canonical form (R68, R72, R73, R78). -/
theorem cartridgeOf_wf {f : List Byte} (p : Bool) (h : declaredMapper f = 0) :
    (cartridgeOf p f).wf = true := by
  have hprgRam : (cartridgeOf p f).prgRam.all (Memory.wf Config.prgRamSize) = true := by cases p <;> rfl
  simp only [Cartridge.wf, Bool.and_eq_true, decide_eq_true_eq]
  exact ⟨⟨⟨Memory.wf_slice f _ _, hprgRam⟩, Memory.wf_slice f _ _⟩, h⟩

/-- A boot that answers loaded a cartridge and reset the machine made with it (R345). -/
theorem boot_ok {p : Bool} {f : List Byte} {s : State} (h : boot p f = .ok s) :
    ∃ c, loadCartridge p f = .ok c ∧ resetMachine (State.powerUp c) = .ok s := by
  rw [boot] at h
  cases hload : loadCartridge p f with
  | error e => rw [hload] at h; cases h
  | ok c => rw [hload] at h; exact ⟨c, rfl, h⟩

/-- Settles O19: Reset keeps the form of the machine just created, and that is its cartridge's. -/
theorem resetIsCanonical : Obligations.ResetIsCanonical := by
  refine ⟨rfl, fun p f s h => ?_⟩
  obtain ⟨c, hload, hreset⟩ := boot_ok h
  obtain ⟨hmapper, -, rfl⟩ := loadCartridge_ok hload
  calc s.wf
    _ = (State.powerUp (cartridgeOf p f)).wf := resetMachine_wf hreset
    _ = (cartridgeOf p f).wf := State.wf_powerUp _
    _ = true := cartridgeOf_wf p hmapper

end Sys2Proof.Machine
end
